-- ==== Sys2Proof/Word.lean ====
section
/-! DEFINITION. The word types of the block: what the spec treats as bits (00_scope.md R13). -/

namespace Sys2Proof

/-- A byte of the stream, unsigned, bit 7 most significant (R13). -/
abbrev Byte := BitVec 8

/-- The value of one hex digit (R91). -/
abbrev Nibble := BitVec 4

/-- The accumulator's width, CODE_W = 32, unsigned, bit 31 most significant (R6, R21). -/
abbrev Code := BitVec 32

/-- The frame position counter's width (R22). -/
abbrev Pos := BitVec 4

/-- The command code `cmd[1:0]` (R80). -/
abbrev CmdCode := BitVec 2

/-- The command port at one step: bit 2 is `cmd_valid`, bits 1:0 are `cmd` (R96). -/
abbrev CmdWord := BitVec 3

end Sys2Proof
end

