-- ==== Sys2Proof/Syntax.lean ====
section
/-! DEFINITION. The commands of the block, one constructor per row of spec/opcode_table.json (R82, R96). -/

namespace Sys2Proof

/-- A command as the block sees it on its command port at one step. No command has an operand (R80). -/
inductive Instr where
  /-- Row `0xx`: no command presented; `x` is the ignored value of `cmd` (R81, R162; log 16). -/
  | nopIdle (x : CmdCode)
  /-- Row `100`: the explicit no-operation code (R83, R162). -/
  | nop
  /-- Row `101`: `has_packet_available()` (R110). -/
  | poll
  /-- Row `110`: `read_code()` (R130). -/
  | read
  /-- Row `111`: `flush()` (R160). -/
  | flush
  deriving DecidableEq, Repr

/-- The mnemonic of the command's row in spec/opcode_table.json (R94). -/
def Instr.mnemonic : Instr → String
  | .nopIdle _ => "NOP"
  | .nop => "NOP"
  | .poll => "POLL"
  | .read => "READ"
  | .flush => "FLUSH"

/-- Why a number is no command word. -/
inductive DecodeReject where
  /-- A bit above bit 2 is set: the command port has three bits (R80, R96; log 17). Raised by
  `decodeNumber` only, never by a step of the machine. Safe: no such input reaches the port. -/
  | bitsAboveThePort (w : Nat)
  deriving DecidableEq, Repr

end Sys2Proof
end

