-- ==== Sys2Proof/Decode.lean ====
section
/-! DEFINITION. Decoding of the command port (R81, R82), the encoder, and the table of R96 as data. -/

namespace Sys2Proof

/-- `cmd_valid`, bit 2 of the command word (R96). -/
def cmdValidOf (w : CmdWord) : Bool := w.getLsbD 2

/-- `cmd[1:0]`, bits 1:0 of the command word (R96). -/
def cmdCodeOf (w : CmdWord) : CmdCode := w.extractLsb' 0 2

/-- The command word of a value of the two port inputs. -/
def cmdWordOf (valid : Bool) (code : CmdCode) : CmdWord := BitVec.ofBool valid ++ code

/-- The row of R82 that `cmd` selects when `cmd_valid` = 1. -/
def decodeCode (c : CmdCode) : Instr :=
  if c = 0b00#2 then .nop
  else if c = 0b01#2 then .poll
  else if c = 0b10#2 then .read
  else .flush

/-- The decoding rule R81: total, and a function of the command port alone. -/
def decode (w : CmdWord) : Instr :=
  if cmdValidOf w then decodeCode (cmdCodeOf w) else .nopIdle (cmdCodeOf w)

/-- The word of a command, written from the rows of R82. -/
def encode : Instr → CmdWord
  | .nopIdle x => 0b0#1 ++ x
  | .nop => 0b100#3
  | .poll => 0b101#3
  | .read => 0b110#3
  | .flush => 0b111#3

/-- A number as a command word: rejected by name when a bit above the port's three is set (log 17). -/
def decodeNumber (w : Nat) : Except DecodeReject Instr :=
  if w < 8 then .ok (decode (BitVec.ofNat 3 w)) else .error (.bitsAboveThePort w)

/-- The host's question: the command read from the low `nbits` bits of `w`, numbered as
spec/opcode_table.json numbers them, every bit above being 0. -/
def decodeTableWord (nbits w : Nat) : Option Instr :=
  match decodeNumber (w % 2 ^ nbits) with
  | .ok i => some i
  | .error _ => none

/-- The rows of spec/opcode_table.json: mnemonic, mask, match (R96). -/
def opcodeRows : List (String × CmdWord × CmdWord) :=
  [ ("NOP",   0b100#3, 0b000#3),
    ("NOP",   0b111#3, 0b100#3),
    ("POLL",  0b111#3, 0b101#3),
    ("READ",  0b111#3, 0b110#3),
    ("FLUSH", 0b111#3, 0b111#3) ]

/-- The rows a word matches. -/
def matchingRows (w : CmdWord) : List (String × CmdWord × CmdWord) :=
  opcodeRows.filter fun r => (w &&& r.2.1) == r.2.2

end Sys2Proof
end

