-- ==== Sys2Proof/Config.lean ====
section
/-! DEFINITION. What is fixed for the machine: the wire constants of R6, the parameters of R7, and the
values the spec leaves open (opaque: no proof can see what they are). -/

namespace Sys2Proof

/-- The two parameters of R7 that the spec leaves open: the width in bits of `s_count` and the largest
number of unread bytes the transport can hold. -/
structure Params where
  cw : Nat
  fifoDepth : Nat
  deriving DecidableEq, Repr

namespace Config

/-- START_FLAG, the byte that marks the beginning of a frame (R6). -/
def startFlag : Byte := 0x02#8

/-- END_FLAG, the byte that marks the end of a frame; no rule of the block reads it (R6, R88). -/
def endFlag : Byte := 0x03#8

/-- HEADER_LEN (R6). -/
def headerLen : Nat := 2

/-- DATA_LEN (R6). -/
def dataLen : Nat := 8

/-- CHECKSUM_LEN (R6). -/
def checksumLen : Nat := 2

/-- PACKET_LEN = 1 + HEADER_LEN + DATA_LEN + CHECKSUM_LEN + 1 = 14 (R6). -/
def packetLen : Nat := 1 + headerLen + dataLen + checksumLen + 1

/-- HEX_LOWERCASE: 'a' to 'f' count as hex digits (R7, R91, log 15). -/
def hexLowercase : Bool := true

/-- How far CW lies above its least legal value 4 (R7; open: no body). -/
opaque cwAboveFour : Nat

/-- CW, the width of `s_count`; R7 requires CW >= 4 (log 8). -/
def cw : Nat := 4 + cwAboveFour

/-- The free part of FIFO_DEPTH (R7; open: no body). -/
opaque depthChoice : Nat

/-- FIFO_DEPTH, kept in the range 14 to 2^CW - 1 that R7 requires (log 8). -/
def fifoDepth : Nat := packetLen + depthChoice % (2 ^ cw - packetLen)

/-- The parameters of this machine. -/
def params : Params := { cw := cw, fifoDepth := fifoDepth }

/-- TransportOverflow: what becomes of the stream when a byte arrives at a full transport (R10, U7;
open: no body; log 7). -/
opaque transportOverflow : List Byte → Byte → List Byte

/-- The value on `s_head` at a step for which no input is given and the stream is empty (R32, U2; open:
no body; log 9). -/
opaque idleEmptyHead : Byte

/-- HexVal of a byte that is not a hex digit: don't-care (R143; open: no body; log 10). -/
opaque hexValDontCare : Byte → Nibble

end Config

end Sys2Proof
end

