-- ==== Sys2Proof/Machine/Flags.lean ====
section
/-! DEFINITION. What POLL computes: the branch it takes, its result for AVAIL, and whether it pops. -/

namespace Sys2Proof.Machine

/-- The four branches of POLL (R117). -/
inductive PollBranch where
  /-- The stream is empty (R113). -/
  | empty
  /-- The head is not the start flag (R112). -/
  | stray
  /-- The head is the start flag and fewer than fourteen bytes are buffered (R114). -/
  | incomplete
  /-- The head is the start flag and a whole frame is buffered (R114). -/
  | complete
  deriving DecidableEq, Repr

/-- The branch POLL takes, from `Count()` and `Peek()` alone, in the order of tests of R115. -/
def pollBranch (count : Nat) (head : Byte) : PollBranch :=
  if count = 0 then .empty
  else if head ≠ Config.startFlag then .stray
  else if Config.packetLen ≤ count then .complete
  else .incomplete

/-- The result of POLL, written to AVAIL (R111, R117). -/
def pollResult : PollBranch → Bool
  | .empty => false
  | .stray => false
  | .incomplete => false
  | .complete => true

/-- Whether POLL pops the head byte (R112, R117). -/
def pollPops : PollBranch → Bool
  | .empty => false
  | .stray => true
  | .incomplete => false
  | .complete => false

end Sys2Proof.Machine
end

