-- ==== Sys2Proof/Machine/Operands.lean ====
section
/-! DEFINITION. The data formats of the stream: the hex digit code (R91) and the frame's fields (R87). -/

namespace Sys2Proof.Machine

/-- '0' to '9' (R91). -/
def isDecimalDigit (b : Byte) : Bool := decide (0x30#8 ≤ b) && decide (b ≤ 0x39#8)

/-- 'A' to 'F' (R91). -/
def isUpperHex (b : Byte) : Bool := decide (0x41#8 ≤ b) && decide (b ≤ 0x46#8)

/-- 'a' to 'f' (R91). -/
def isLowerHex (b : Byte) : Bool := decide (0x61#8 ≤ b) && decide (b ≤ 0x66#8)

/-- IsHex (R91): the lower-case range by the parameter HEX_LOWERCASE (log 15). -/
def isHex (b : Byte) : Bool :=
  isDecimalDigit b || isUpperHex b || (Config.hexLowercase && isLowerHex b)

/-- HexVal (R91): `b - 0x30`, `b - 0x41 + 10` or `b - 0x61 + 10`, and don't-care when `isHex b` is false
(R143; log 10). -/
def hexVal (b : Byte) : Nibble :=
  if isDecimalDigit b then (b - 0x30#8).setWidth 4
  else if isUpperHex b then (b - 0x41#8 + 10#8).setWidth 4
  else if isLowerHex b then (b - 0x61#8 + 10#8).setWidth 4
  else Config.hexValDontCare b

/-- `{ACC[27:0], n}`: the digit shifted in at the low end (R135, R142). -/
def shiftDigit (acc : Code) (n : Nibble) : Code := (acc <<< 4) ||| n.setWidth 32

/-- The fields of the frame, as READ treats them (R87). -/
inductive FrameField where
  /-- The start flag and the header. -/
  | hdr
  /-- The data region. -/
  | data
  /-- The checksum and the end flag. -/
  | tail
  deriving DecidableEq, Repr

/-- FrameField (R87). Positions 14 and 15, which no run reaches, are no data positions (R130; log 11). -/
def frameField (p : Pos) : FrameField :=
  if p.toNat ≤ Config.headerLen then .hdr
  else if p.toNat ≤ Config.headerLen + Config.dataLen then .data
  else .tail

end Sys2Proof.Machine
end

