-- ==== Sys2Proof/Machine/State.lean ====
section
/-! DEFINITION. The state of the machine, its reset value, and the reasons a step can stop. -/

namespace Sys2Proof.Machine

/-- One byte that arrives at the transport (R10). -/
inductive Arrival where
  /-- `Push(b)`: the byte is appended at the tail of the stream (R10, R15). -/
  | push (b : Byte)
  /-- The byte arrives when the transport is full: the stream becomes what the open parameter
  TransportOverflow says (R10, U7; log 7). -/
  | overflow (b : Byte)
  deriving DecidableEq, Repr

/-- What the outside drives at one step: the host's side and the transport's (R28 to R32; log 1). -/
structure StepInput where
  /-- `rst` (R29). -/
  rst : Bool
  /-- `cmd_valid` (R30). -/
  cmdValid : Bool
  /-- `cmd[1:0]` (R30). -/
  cmd : CmdCode
  /-- The value on `s_head` if the stream is empty at this step: any value (R32, U2; log 9). -/
  emptyHead : Byte
  /-- The bytes that arrive at this step, in order; visible from the next step (R32, R62; log 6). -/
  arrivals : List Arrival
  deriving DecidableEq, Repr

/-- The input of a step for which the schedule holds none: no reset, no command, no arrival (log 2). -/
def StepInput.idle : StepInput :=
  { rst := false, cmdValid := false, cmd := 0#2, emptyHead := Config.idleEmptyHead, arrivals := [] }

/-- The state: the five registers of R20, the stream S of R11 and R34, and the model's own schedule of
the inputs of the coming steps (log 1). -/
@[ext]
structure State where
  /-- ACC (R21). -/
  acc : Code
  /-- POS (R22). -/
  pos : Pos
  /-- BUSY (R23). -/
  busy : Bool
  /-- STOP (R24). -/
  stop : Bool
  /-- AVAIL (R25). -/
  avail : Bool
  /-- S, head first (R34). -/
  stream : List Byte
  /-- The inputs of the coming steps, the next one first (log 1). -/
  inputs : List StepInput
  deriving DecidableEq, Repr

/-- The reasons a step stops with a fault: none. The block raises no exception, takes no trap and signals
no error (R170, R180; log 19). -/
inductive Fault where
  deriving DecidableEq, Repr

/-- The reasons a step has no meaning. -/
inductive Refusal where
  /-- The command has no meaning in the model yet. Raised by `exec` only; no arm raises it. Safe. -/
  | notModelled (mnemonic : String)
  deriving DecidableEq, Repr

/-- The machine right after reset: the registers as R35 gives them; the stream, which R202 leaves
unspecified, empty (DESIGN CHOICE, log 3); no input scheduled (log 1). -/
def State.reset : State :=
  { acc := 0#32, pos := 0#4, busy := false, stop := false, avail := false, stream := [], inputs := [] }

end Sys2Proof.Machine
end

