-- ==== Sys2Proof/Machine/Ops.lean ====
section
/-! DEFINITION. The named operations over the stream and the registers. There is no exception to take and
none to return from (R170, R180). -/

namespace Sys2Proof.Machine

/-- The input of the coming step (log 1, log 2). -/
def State.currentInput (s : State) : StepInput := s.inputs.headD StepInput.idle

/-- The command word on the port at the coming step (R96). -/
def StepInput.word (i : StepInput) : CmdWord := cmdWordOf i.cmdValid i.cmd

/-! ### The stream (R15, R50) -/

/-- `Count()`, a natural number (R15, R52; log 8). -/
def State.count (s : State) : Nat := s.stream.length

/-- `Peek()` (R51): the head byte, or the free value of `s_head` when the stream is empty (R32; log 9). -/
def State.peek (s : State) : Byte := s.stream.headD s.currentInput.emptyHead

/-- `Pop()` (R53): the head byte leaves the stream. -/
def State.pop (s : State) : State := { s with stream := s.stream.tail }

/-- One arrival at the transport: `Push(b)` (R15), or TransportOverflow (R10; log 7). -/
def arrive (stream : List Byte) : Arrival → List Byte
  | .push b => stream ++ [b]
  | .overflow b => Config.transportOverflow stream b

/-- The arrivals of one step, in order. -/
def arriveAll (stream : List Byte) (as : List Arrival) : List Byte := as.foldl arrive stream

/-! ### The registers -/

/-- AVAIL <- v (R25). -/
def State.setAvail (s : State) (v : Bool) : State := { s with avail := v }

/-- ACC <- {ACC[27:0], n} (R135). -/
def State.shiftIn (s : State) (n : Nibble) : State := { s with acc := shiftDigit s.acc n }

/-- STOP <- 1 (R137). -/
def State.setStop (s : State) : State := { s with stop := true }

/-- The reset of the five registers; the stream is not touched (R200, R202). -/
def State.resetRegisters (s : State) : State :=
  { s with acc := 0#32, pos := 0#4, busy := false, stop := false, avail := false }

/-- READ acceptance: ACC, POS, STOP and AVAIL are cleared, BUSY is set (R131). -/
def State.acceptRead (s : State) : State :=
  { s with acc := 0#32, pos := 0#4, busy := true, stop := false, avail := false }

/-- Advance and completion of a consume step (R140). -/
def State.advancePos (s : State) : State :=
  if s.pos = 13#4 then { s with pos := 0#4, busy := false } else { s with pos := s.pos + 1#4 }

/-! ### The end of a step -/

/-- The arrivals of the step are appended after the block's own part of it, and the schedule moves on
(R32, R62; log 6). -/
def State.endCycle (s : State) : State :=
  { s with stream := arriveAll s.stream s.currentInput.arrivals, inputs := s.inputs.tail }

end Sys2Proof.Machine
end

