-- ==== Sys2Proof/Machine/HexRead.lean ====
section
/-! DEFINITION. READ and the ASCII-hex decoder (41_read_hexdec.md): the acceptance step, which is the
meaning of the command, and the consume and hold steps that follow while BUSY = 1 (log 20). -/

namespace Sys2Proof.Machine

/-- READ, the acceptance step (R131): no byte is popped, and nothing of the stream or of AVAIL is looked
at (R139; log 13). -/
def execRead (s : State) : Host.Outcome State Fault Refusal :=
  .next s.acceptRead

/-- A data byte: shifted in if it is a digit and none before it was bad (R135); otherwise STOP <- 1, or
nothing when STOP is already 1 (R137; log 12). -/
def State.dataByte (s : State) (b : Byte) : State :=
  if s.stop then s
  else if isHex b then s.shiftIn (hexVal b)
  else s.setStop

/-- What READ does with the byte at position POS (R134, R135, R137, R138). -/
def State.fieldAction (s : State) (b : Byte) : State :=
  match frameField s.pos with
  | .hdr => s
  | .data => s.dataByte b
  | .tail => s

/-- The consume step (R132): the head byte is popped, treated by its position, and POS advances. -/
def State.consume (s : State) : State :=
  ((s.pop).fieldAction s.peek).advancePos

/-- A step of a busy block: a hold when the stream is empty (R133), else a consume step (R132). -/
def State.readContinue (s : State) : State :=
  if s.count = 0 then s else s.consume

end Sys2Proof.Machine
end

