-- ==== Sys2Proof/Machine/Idle.lean ====
section
/-! DEFINITION. FLUSH and NOP (42_flush_nop.md): the commands that change nothing. -/

namespace Sys2Proof.Machine

/-- Row `0xx`: no command presented; nothing changes (R162). -/
def execNopIdle (s : State) : Host.Outcome State Fault Refusal := .next s

/-- Row `100`: the explicit NOP; nothing changes (R83, R162). -/
def execNop (s : State) : Host.Outcome State Fault Refusal := .next s

/-- FLUSH is a no-op (R160; log 14). -/
def execFlush (s : State) : Host.Outcome State Fault Refusal := .next s

end Sys2Proof.Machine
end

