-- ==== Sys2Proof/Machine/Sync.lean ====
section
/-! DEFINITION. The frame synchronizer: POLL (40_sync_poll.md). -/

namespace Sys2Proof.Machine

/-- The branch a POLL of this state takes (R117). -/
def State.pollBranch (s : State) : PollBranch := Machine.pollBranch s.count s.peek

/-- POLL (R110): at most one stray byte is popped, and AVAIL takes the result on every branch (R111). -/
def execPoll (s : State) : Host.Outcome State Fault Refusal :=
  let t := if pollPops s.pollBranch then s.pop else s
  .next (t.setAvail (pollResult s.pollBranch))

end Sys2Proof.Machine
end

