-- ==== Sys2Proof/Machine/Cycle.lean ====
section
/-! DEFINITION. One rising edge of the clock: the priority of events (R178), and the ports seen from
outside (R31, R32). -/

namespace Sys2Proof.Machine

/-- The command the port presents at the coming step (R81). -/
def State.presented (s : State) : Instr := decode s.currentInput.word

/-- The block's own part of a step, in the order of R178: reset, then a READ in progress, then the
command presented (NOP when there is none). -/
def blockCycle (s : State) : Host.Outcome State Fault Refusal :=
  if s.currentInput.rst then .next s.resetRegisters
  else if s.busy then .next s.readContinue
  else exec s.presented s

/-- A whole step: the block's part, then the arrivals of the step (R62). -/
def cycle (s : State) : Host.Outcome State Fault Refusal :=
  match blockCycle s with
  | .next t => .next t.endCycle
  | .fault f => .fault f
  | .refused r => .refused r

/-! ### Ports -/

/-- Output `busy` (R31). -/
def State.portBusy (s : State) : Bool := s.busy

/-- Output `avail` (R31). -/
def State.portAvail (s : State) : Bool := s.avail

/-- Output `code` (R31). -/
def State.portCode (s : State) : Code := s.acc

/-- Input `s_count`: Count() as a CW-bit unsigned value (R32; log 8). -/
def State.portCount (s : State) : BitVec Config.cw := BitVec.ofNat Config.cw s.count

/-- Input `s_head` (R32). -/
def State.portHead (s : State) : Byte := s.peek

/-- Output `s_pop` (R32): not at reset (R200); at every step of a READ that sees a byte (R132, R133); at
the stray branch of a POLL (R112). -/
def State.portPop (s : State) : Bool :=
  if s.currentInput.rst then false
  else if s.busy then decide (s.count ≠ 0)
  else match s.presented with
    | .nopIdle _ => false
    | .nop => false
    | .poll => pollPops s.pollBranch
    | .read => false
    | .flush => false

/-- The schedule whose next step presents the low `nbits` bits of `w` on the command port without a
reset; what else the step's input holds stays. -/
def inputsWithWord (s : State) (nbits w : Nat) : List StepInput :=
  let v : CmdWord := BitVec.ofNat 3 (w % 2 ^ nbits)
  { s.currentInput with rst := false, cmdValid := cmdValidOf v, cmd := cmdCodeOf v } :: s.inputs.tail

end Sys2Proof.Machine
end

