-- ==== Sys2Proof/Machine/Step.lean ====
section
/-! DEFINITION. The step of the machine, and the placing of one command at the port. -/

namespace Sys2Proof.Machine

/-- One step: one rising edge of `clk` (R12). -/
def step (s : State) : Host.Outcome State Fault Refusal := cycle s

/-- `s` with a command at the port for its next step. A command is looked at only when BUSY = 0 and
`rst` = 0 (R81), so BUSY is 0 in the result (log 5). -/
def State.withFetchWord (s : State) (nbits w : Nat) : State :=
  { s with busy := false, inputs := inputsWithWord s nbits w }

end Sys2Proof.Machine
end

