-- ==== Sys2Proof/Safety.lean ====
section
/-! DEFINITION. What claims about the block speak of: its invariants (R39, R142), the conceptual states of
R26, the host's and the transport's contract, and the operation-level value of READ (R141). -/

namespace Sys2Proof.Machine

/-! ### Invariants -/

/-- R39 (a) to (d), which hold at every step after the first reset. -/
structure State.Inv (s : State) : Prop where
  /-- (a) POS is in 0..13. -/
  pos_legal : s.pos.toNat ≤ 13
  /-- (b) BUSY = 0 implies POS = 0. -/
  idle_pos : s.busy = false → s.pos = 0#4
  /-- (c) BUSY = 1 implies AVAIL = 0. -/
  busy_avail : s.busy = true → s.avail = false
  /-- (d) Until the first data byte of a READ, ACC = 0 and STOP = 0. -/
  before_data : s.busy = true → s.pos.toNat ≤ 3 → s.acc = 0#32 ∧ s.stop = false

/-- The number of data positions before position `p` (R87, R142). -/
def dataBefore (p : Pos) : Nat := min (p.toNat - 3) 8

/-- While a READ runs, ACC < 16^j with j the data bytes consumed, an upper bound on the digits accumulated
(R142). -/
def State.AccBounded (s : State) : Prop := s.busy = true → s.acc.toNat < 16 ^ dataBefore s.pos

/-! ### The conceptual states of R26 -/

/-- The four states of the source's state machine (R26). -/
inductive Phase where
  | scanning
  | framedIncomplete
  | framedComplete
  | consuming
  deriving DecidableEq, Repr

/-- The predicate table of R26; the empty stream is placed under scanning (R113). -/
def State.phase (s : State) : Phase :=
  if s.busy then .consuming
  else match s.stream with
    | [] => .scanning
    | b :: _ =>
      if b ≠ Config.startFlag then .scanning
      else if s.count < 14 then .framedIncomplete
      else .framedComplete

/-! ### The contract of the outside -/

/-- An arrival that is a plain push: no transport overflow (R10, R68). -/
def Arrival.isPush : Arrival → Bool
  | .push _ => true
  | .overflow _ => false

/-- The byte that arrives. -/
def Arrival.byte : Arrival → Byte
  | .push b => b
  | .overflow b => b

/-- No overflow of the transport at this step (R10). -/
def StepInput.noOverflow (i : StepInput) : Bool := i.arrivals.all Arrival.isPush

/-- The bytes that arrive over a list of steps, in order. -/
def arrivedBytes (is : List StepInput) : List Byte := is.flatMap fun i => i.arrivals.map Arrival.byte

/-- A step without reset and without overflow. -/
def StepInput.calm (i : StepInput) : Bool := !i.rst && i.noOverflow

/-- A calm step at which the host presents this command. -/
def StepInput.calmCommand (i : StepInput) (c : Instr) : Bool := i.calm && decide (decode i.word = c)

/-- A calm step at which the host presents no READ: a POLL, a FLUSH or a NOP (R68 (b)). -/
def StepInput.calmNoRead (i : StepInput) : Bool := i.calm && decide (decode i.word ≠ .read)

/-- The scheduled input of step `k` from here, counted from 0 (log 2 beyond the schedule's end). -/
def State.inputAt (s : State) (k : Nat) : StepInput := s.inputs.getD k StepInput.idle

/-- The bytes that arrive at the next `n` steps. -/
def State.arrivedWithin (s : State) (n : Nat) : List Byte := arrivedBytes (s.inputs.take n)

/-- `s` with another command at the port for the coming step. -/
def State.withCommand (s : State) (valid : Bool) (code : CmdCode) : State :=
  { s with inputs := { s.currentInput with cmdValid := valid, cmd := code } :: s.inputs.tail }

/-- `s` with another value on `s_head` for the case that the stream is empty at the coming step (U2). -/
def State.withEmptyHead (s : State) (h : Byte) : State :=
  { s with inputs := { s.currentInput with emptyHead := h } :: s.inputs.tail }

/-- `n` steps of the machine. -/
def run (n : Nat) (s : State) : Host.Outcome State Fault Refusal := Sys2Proof.core.run n s

/-! ### The script of test programs (R94), as inputs of steps -/

/-- A step at which the host presents this command and `bs` arrive. -/
def commandStep (i : Instr) (bs : List Byte) : StepInput :=
  { rst := false, cmdValid := cmdValidOf (encode i), cmd := cmdCodeOf (encode i), emptyHead := 0#8,
    arrivals := bs.map Arrival.push }

/-- A step with `rst` = 1, at which `bs` arrive. -/
def resetStep (bs : List Byte) : StepInput := { commandStep .nop bs with rst := true }

/-! ### The operation level (R141) -/

/-- The data region of the bytes a READ has consumed: frame offsets 3 to 10 (R86). -/
def dataRegion (f : List Byte) : List Byte := (f.drop 3).take 8

/-- `m` of R141: how many leading bytes are hex digits. -/
def digitCount (d : List Byte) : Nat := (d.takeWhile isHex).length

/-- `Decode` of R141: the sum for k from 0 to m-1 of HexVal(dk) * 16^(m-1-k). -/
def decodeNat (d : List Byte) : Nat :=
  ((List.range (digitCount d)).map fun k =>
    (hexVal (d.getD k 0#8)).toNat * 16 ^ (digitCount d - 1 - k)).sum

/-- `Decode` as a value of ACC (R141; the sum is below 2^32, R142). -/
def decodeData (d : List Byte) : Code := BitVec.ofNat 32 (decodeNat d)

/-- A READ in progress that has consumed exactly the bytes `p` (R131 to R140). -/
structure ReadProgress (p : List Byte) (s : State) : Prop where
  busy : s.busy = true
  pos : s.pos.toNat = p.length
  unfinished : p.length ≤ 13
  avail : s.avail = false
  acc : s.acc = decodeData (dataRegion p)
  stop : s.stop = (dataRegion p).any fun b => !isHex b

/-- A READ that has just completed over the fourteen bytes `f` (R140, R141). -/
structure ReadDone (f : List Byte) (s : State) : Prop where
  busy : s.busy = false
  pos : s.pos = 0#4
  length : f.length = 14
  avail : s.avail = false
  acc : s.acc = decodeData (dataRegion f)
  stop : s.stop = (dataRegion f).any fun b => !isHex b

/-- The contents of a data region whose value every host platform agrees on: digits '0' to '9' and 'A' to
'F' only (U3). -/
def tagDigits (d : List Byte) : Bool := d.all fun b => isDecimalDigit b || isUpperHex b

/-- A conforming frame (R86, R88): fourteen bytes, the two flags, eight hex digits. -/
def conformingFrame (f : List Byte) : Bool :=
  decide (f.length = Config.packetLen) && decide (f.head? = some Config.startFlag)
    && decide (f.getLast? = some Config.endFlag) && (dataRegion f).all isHex

end Sys2Proof.Machine
end

