-- ==== Sys2Proof/WellFormed.lean ====
section
/-! DEFINITION. The checks on a command and on the parameters. -/

namespace Sys2Proof

/-- A command is well formed. Every term is: the one field there is, the ignored `cmd` of `nopIdle`, has
exactly its two bits by its type, and all codes are assigned (R80, R83). -/
def Instr.wf : Instr → Bool
  | .nopIdle _ => true
  | .nop => true
  | .poll => true
  | .read => true
  | .flush => true

/-- CW >= 4 (R7). -/
def Params.cwWide (p : Params) : Bool := decide (4 ≤ p.cw)

/-- FIFO_DEPTH holds a whole frame (R7, R216). -/
def Params.depthHoldsFrame (p : Params) : Bool := decide (Config.packetLen ≤ p.fifoDepth)

/-- Every buffered count fits in CW bits (R7). -/
def Params.countFits (p : Params) : Bool := decide (p.fifoDepth < 2 ^ p.cw)

/-- The constraints R7 puts on the open parameters. -/
def Params.wf (p : Params) : Bool := p.cwWide && p.depthHoldsFrame && p.countFits

end Sys2Proof
end

