-- ==== Sys2Proof/Certificates/Slice0/Obligations.lean ====
section
/-! DEFINITION. What is claimed of the block, each claim with the rule of spec/ it comes from. -/

open Sys2Proof Sys2Proof.Machine

/-! ### Reset -/

/-- R200: a step with `rst` = 1, whatever the registers held and whatever the other inputs are, zeroes the
five registers, pops nothing and leaves the stream with only the transport's arrivals added. -/
def Obligations.ResetStepZeroesRegisters : Prop :=
  ∀ s : State, s.currentInput.rst = true →
    step s = .next
      { acc := 0#32, pos := 0#4, busy := false, stop := false, avail := false,
        stream := arriveAll s.stream s.currentInput.arrivals, inputs := s.inputs.tail }
    ∧ s.portPop = false

/-- R35, R201: the registers of `State.reset`, and of every state a reset step leaves, show an idle block,
and the first step with `rst` = 0 after a reset step executes the command at the port. -/
def Obligations.ResetLeavesBlockIdle : Prop :=
  (State.reset.acc = 0#32 ∧ State.reset.pos = 0#4 ∧ State.reset.busy = false
    ∧ State.reset.stop = false ∧ State.reset.avail = false)
  ∧ ∀ s t : State, s.currentInput.rst = true → step s = .next t →
      t.portBusy = false ∧ t.portAvail = false ∧ t.portCode = 0#32
      ∧ ∀ u : State, t.currentInput.rst = false → exec t.presented t = .next u →
          step t = .next u.endCycle

/-- R39, R142: the invariants hold in `State.reset` and after a reset step taken from any state. -/
def Obligations.ResetEstablishesInvariants : Prop :=
  (State.reset.Inv ∧ State.reset.AccBounded)
  ∧ ∀ s t : State, s.currentInput.rst = true → step s = .next t → t.Inv ∧ t.AccBounded

/-! ### Commands and their words -/

/-- R82, R83: the words of the table, written out bit by bit. -/
def Obligations.CommandCodesDecode : Prop :=
  decode 0b000#3 = .nopIdle 0b00#2 ∧ decode 0b001#3 = .nopIdle 0b01#2
  ∧ decode 0b010#3 = .nopIdle 0b10#2 ∧ decode 0b011#3 = .nopIdle 0b11#2
  ∧ decode 0b100#3 = .nop ∧ decode 0b101#3 = .poll ∧ decode 0b110#3 = .read ∧ decode 0b111#3 = .flush

/-- R96: every three-bit input matches exactly one row of the table, the row of the command it decodes to. -/
def Obligations.TableRowsPartitionThePort : Prop :=
  ∀ w : CmdWord, ∃ r, matchingRows w = [r] ∧ r.1 = (decode w).mnemonic

/-- R82: decoding the word of a well-formed command gives it back, and encoding what a word decodes to gives
the word back. -/
def Obligations.DecodeEncodeRoundTrip : Prop :=
  (∀ i : Instr, i.wf = true → decode (encode i) = i) ∧ ∀ w : CmdWord, encode (decode w) = w

/-! ### The step -/

/-- R81, R30, R62: a step with `rst` = 0 and BUSY = 0 is the command decoded from the port, then the
arrivals of the step and the move to the next input. -/
def Obligations.StepRunsPresentedCommand : Prop :=
  ∀ s t : State, s.currentInput.rst = false → s.busy = false →
    exec (decode (cmdWordOf s.currentInput.cmdValid s.currentInput.cmd)) s = .next t →
    step s = .next
      { t with stream := arriveAll t.stream s.currentInput.arrivals, inputs := s.inputs.tail }

/-- The model's own interface (log 5, DESIGN CHOICE): a word of the table placed with `withFetchWord` is
what the very next step runs. -/
def Obligations.PlacedWordIsExecuted : Prop :=
  ∀ (s t : State) (nbits w : Nat) (i : Instr), decodeTableWord nbits w = some i →
    exec i (s.withFetchWord nbits w) = .next t → step (s.withFetchWord nbits w) = .next t.endCycle

/-- R84, R81: while BUSY = 1, and at a reset, what the command port presents makes no difference to the next
state or to `s_pop`. -/
def Obligations.CommandPortIgnoredWhileBusyOrReset : Prop :=
  ∀ (s : State) (valid : Bool) (code : CmdCode), (s.currentInput.rst = true ∨ s.busy = true) →
    step (s.withCommand valid code) = step s ∧ (s.withCommand valid code).portPop = s.portPop

/-- R32, R113, R133: the value on `s_head` while the stream is empty reaches no register and no output. -/
def Obligations.EmptyStreamHeadIsNeverUsed : Prop :=
  ∀ (s : State) (h : Byte), step (s.withEmptyHead h) = step s ∧ (s.withEmptyHead h).portPop = s.portPop

/-- R170: the step function is total over all register values, command inputs and stream inputs, and so is
the meaning of each command. -/
def Obligations.EveryStepAnswersNext : Prop :=
  (∀ s : State, ∃ t, step s = .next t) ∧ ∀ (i : Instr) (s : State), ∃ t, exec i s = .next t

/-! ### The stream -/

/-- R54: `s_pop` is asserted only where the stream holds a byte: at a step of a READ, and at a POLL that
sees a head byte different from the start flag. -/
def Obligations.PopOnlyFromNonEmptyStream : Prop :=
  ∀ s : State, s.portPop = true ↔
    s.currentInput.rst = false ∧ s.stream ≠ []
    ∧ (s.busy = true ∨ (s.presented = .poll ∧ s.stream.head? ≠ some 0x02#8))

/-- R53, R61, R62, R64: a step takes at most the head byte off the stream, exactly when it asserts `s_pop`,
and then the arrivals of the step stand at the tail. -/
def Obligations.StreamIsPoppedThenExtended : Prop :=
  ∀ s t : State, step s = .next t →
    t.stream = arriveAll (if s.portPop then s.stream.tail else s.stream) s.currentInput.arrivals
    ∧ (s.currentInput.noOverflow = true →
        t.stream = (if s.portPop then s.stream.tail else s.stream)
          ++ s.currentInput.arrivals.map Arrival.byte)

/-- R62: on a non-empty stream a push before a step and the same push after it give the same state, but for
the AVAIL of a POLL that the pushed byte makes complete. -/
def Obligations.PushCommutesWithStep : Prop :=
  ∀ (s t : State) (b : Byte), s.stream ≠ [] → s.currentInput.arrivals = [] → step s = .next t →
    step { s with stream := s.stream ++ [b] } = .next
      { t with
        stream := t.stream ++ [b]
        avail :=
          if s.currentInput.rst = false ∧ s.busy = false ∧ s.presented = .poll
            ∧ s.stream.head? = some 0x02#8 ∧ s.stream.length = 13
          then true else t.avail }

/-- R32, R52, R120, with the ranges of R7 (log 8): while the transport holds at most FIFO_DEPTH bytes, the
port `s_count` carries the count exactly, and its comparison with fourteen is the comparison POLL makes. -/
def Obligations.CountPortIsExactWithinDepth : Prop :=
  Config.params.wf = true ∧ 4 ≤ Config.cw
  ∧ ∀ s : State, s.count ≤ Config.fifoDepth →
      s.portCount.toNat = s.count ∧ (BitVec.ofNat Config.cw 14 ≤ s.portCount ↔ 14 ≤ s.stream.length)

/-! ### POLL -/

/-- R112: a stray head byte is popped, one byte and no more whatever the count, and AVAIL is 0. -/
def Obligations.PollDiscardsOneStrayByte : Prop :=
  ∀ (s : State) (b : Byte) (rest : List Byte), s.stream = b :: rest → b ≠ 0x02#8 →
    exec .poll s = .next { s with stream := rest, avail := false }
    ∧ (s.currentInput.rst = false → s.busy = false → s.presented = .poll → s.portPop = true)

/-- R113: on an empty stream POLL reports 0 and pops nothing. -/
def Obligations.PollOnEmptyStreamReportsFalse : Prop :=
  ∀ s : State, s.stream = [] →
    exec .poll s = .next { s with avail := false }
    ∧ (s.currentInput.rst = false → s.busy = false → s.presented = .poll → s.portPop = false)

/-- R114: with the start flag at the head POLL reports whether fourteen bytes, the flag counted, are
buffered, and pops nothing. -/
def Obligations.PollOnFramedStreamComparesCount : Prop :=
  ∀ (s : State) (rest : List Byte), s.stream = 0x02#8 :: rest →
    exec .poll s = .next { s with avail := decide (14 ≤ rest.length + 1) }
    ∧ (s.currentInput.rst = false → s.busy = false → s.presented = .poll → s.portPop = false)

/-- R111, R117, R36, the frame of POLL: of the registers only AVAIL is written, with the result; of the
stream only a stray head byte goes. -/
def Obligations.PollWritesAvailOnly : Prop :=
  ∀ s t : State, exec .poll s = .next t →
    t.acc = s.acc ∧ t.pos = s.pos ∧ t.busy = s.busy ∧ t.stop = s.stop ∧ t.inputs = s.inputs
    ∧ (t.avail = true ↔ s.stream.head? = some 0x02#8 ∧ 14 ≤ s.stream.length)
    ∧ (t.stream = s.stream ∧ (s.stream = [] ∨ s.stream.head? = some 0x02#8)
        ∨ ∃ b, s.stream = b :: t.stream ∧ b ≠ 0x02#8)

/-- R26, R117: on an idle block POLL reports true exactly in Framed-Complete, and moves the stream exactly
in Scanning with a byte at hand. -/
def Obligations.PollReportsFramedCompletePhase : Prop :=
  ∀ s t : State, s.busy = false → exec .poll s = .next t →
    (t.avail = true ↔ s.phase = .framedComplete)
    ∧ (t.stream ≠ s.stream ↔ s.phase = .scanning ∧ s.stream ≠ [])

/-- R118: with no arrival between them, two POLLs of a stream that is empty or framed give the same result
and leave all but AVAIL as it was. -/
def Obligations.PollRepeatsUnlessHeadIsStray : Prop :=
  ∀ s : State, s.busy = false → (s.stream = [] ∨ s.stream.head? = some 0x02#8) →
    (∀ k, k < 2 → (s.inputAt k).calmCommand .poll = true ∧ (s.inputAt k).arrivals = []) →
    ∃ t u : State, run 1 s = .next t ∧ run 2 s = .next u
      ∧ t = { s with avail := t.avail, inputs := s.inputs.tail }
      ∧ u = { t with inputs := t.inputs.tail }

/-- R119: over `g` stray bytes before a buffered frame, each of the first POLLs drops one byte and reports 0,
and the next reports 1 with the frame at the head, whatever arrives meanwhile. -/
def Obligations.PollsResynchroniseOnFrame : Prop :=
  ∀ (s : State) (g f rest : List Byte), s.busy = false → s.stream = g ++ f ++ rest →
    (∀ b ∈ g, b ≠ 0x02#8) → f.length = 14 → f.head? = some 0x02#8 →
    (∀ k, k ≤ g.length → (s.inputAt k).calmCommand .poll = true) →
    (∀ k, 1 ≤ k → k ≤ g.length → ∃ t : State, run k s = .next t ∧ t.avail = false
        ∧ t.stream = g.drop k ++ f ++ rest ++ s.arrivedWithin k)
    ∧ ∃ t : State, run (g.length + 1) s = .next t ∧ t.avail = true
        ∧ t.stream = f ++ rest ++ s.arrivedWithin (g.length + 1)

/-- R161: without arrivals, no number of POLLs, FLUSHes and NOPs moves a stream whose head is the start flag
with fewer than thirteen bytes behind it, or makes AVAIL rise. -/
def Obligations.ShortFramedStreamStays : Prop :=
  ∀ (n : Nat) (s : State) (rest : List Byte), s.busy = false → s.stream = 0x02#8 :: rest →
    rest.length < 13 →
    (∀ k, k < n → (s.inputAt k).calmNoRead = true ∧ (s.inputAt k).arrivals = []) →
    ∃ t : State, run n s = .next t ∧ t.stream = s.stream ∧ t.busy = false
      ∧ (s.avail = false → t.avail = false)

/-- R68: once the head is framed and complete, any number of steps with POLLs, FLUSHes and NOPs, and with
pushes that do not overflow, keeps every byte of the stream in place, appends the arrivals and never lets a
true AVAIL fall. -/
def Obligations.TruePollLastsUntilRead : Prop :=
  ∀ (n : Nat) (s : State), s.busy = false → s.stream.head? = some 0x02#8 → 14 ≤ s.stream.length →
    (∀ k, k < n → (s.inputAt k).calmNoRead = true) →
    ∃ t : State, run n s = .next t ∧ t.busy = false ∧ t.acc = s.acc
      ∧ t.stream = s.stream ++ s.arrivedWithin n ∧ (s.avail = true → t.avail = true)

/-! ### READ -/

/-- R131: READ acceptance, whatever the stream holds and whatever AVAIL was. -/
def Obligations.ReadAcceptanceClearsAndStarts : Prop :=
  ∀ s : State,
    exec .read s = .next
      { s with acc := 0#32, pos := 0#4, stop := false, avail := false, busy := true }
    ∧ (s.currentInput.rst = false → s.busy = false → s.presented = .read → s.portPop = false)

/-- R133: a busy block on an empty stream holds; it consumes at a step that sees a byte. -/
def Obligations.ReadHoldsExactlyWhileEmpty : Prop :=
  ∀ s : State, s.currentInput.rst = false → s.busy = true →
    (s.stream = [] → s.portPop = false ∧ step s = .next
      { s with stream := arriveAll [] s.currentInput.arrivals, inputs := s.inputs.tail })
    ∧ (s.stream ≠ [] → s.portPop = true ∧ ∃ t : State, step s = .next t
        ∧ t.stream = arriveAll s.stream.tail s.currentInput.arrivals)

/-- R134: at positions 0 to 2 the byte, whatever it is, changes no register but POS. -/
def Obligations.ReadDiscardsHeaderByte : Prop :=
  ∀ (s : State) (b : Byte) (rest : List Byte), s.currentInput.rst = false → s.busy = true →
    s.stream = b :: rest → s.pos.toNat ≤ 2 →
    step s = .next
      { s with
        pos := s.pos + 1#4
        stream := arriveAll rest s.currentInput.arrivals
        inputs := s.inputs.tail }

/-- R135: a hex digit at positions 3 to 10 with STOP = 0 is shifted into ACC; and the four bits that the
shift drops are zero in every state that meets the invariant. -/
def Obligations.ReadShiftsHexDigitIn : Prop :=
  ∀ (s : State) (b : Byte) (rest : List Byte), s.currentInput.rst = false → s.busy = true →
    s.stream = b :: rest → 3 ≤ s.pos.toNat → s.pos.toNat ≤ 10 → s.stop = false → isHex b = true →
    step s = .next
      { s with
        acc := (s.acc <<< 4) ||| (hexVal b).setWidth 32
        pos := s.pos + 1#4
        stream := arriveAll rest s.currentInput.arrivals
        inputs := s.inputs.tail }
    ∧ (s.acc <<< 4) ||| (hexVal b).setWidth 32 = s.acc.extractLsb' 0 28 ++ hexVal b
    ∧ (s.AccBounded → s.acc.extractLsb' 28 4 = 0#4)

/-- R137: at positions 3 to 10 a byte that is no hex digit sets STOP, and any byte after that is ignored. -/
def Obligations.ReadStopsAtNonHexByte : Prop :=
  ∀ (s : State) (b : Byte) (rest : List Byte), s.currentInput.rst = false → s.busy = true →
    s.stream = b :: rest → 3 ≤ s.pos.toNat → s.pos.toNat ≤ 10 → (s.stop = true ∨ isHex b = false) →
    step s = .next
      { s with
        stop := true
        pos := s.pos + 1#4
        stream := arriveAll rest s.currentInput.arrivals
        inputs := s.inputs.tail }

/-- R138, R140: at positions 11 to 13 the byte, whatever it is, is discarded; position 13 ends the READ, with
the result left in ACC. -/
def Obligations.ReadDiscardsTailByteAndEnds : Prop :=
  ∀ (s : State) (b : Byte) (rest : List Byte), s.currentInput.rst = false → s.busy = true →
    s.stream = b :: rest → 11 ≤ s.pos.toNat → s.pos.toNat ≤ 13 →
    step s = .next
      { s with
        pos := if s.pos.toNat = 13 then 0#4 else s.pos + 1#4
        busy := decide (s.pos.toNat ≠ 13)
        stream := arriveAll rest s.currentInput.arrivals
        inputs := s.inputs.tail }

/-- R132 to R140, one step of a READ that has consumed the bytes `p`: it holds on an empty stream; else the
head byte joins `p`, and the fourteenth completes the READ. -/
def Obligations.ReadAdvancesByOneByte : Prop :=
  ∀ (p : List Byte) (s : State), ReadProgress p s → s.currentInput.rst = false →
    ∃ t : State, step s = .next t
      ∧ (s.stream = [] → ReadProgress p t)
      ∧ ∀ b rest, s.stream = b :: rest →
          (p.length < 13 → ReadProgress (p ++ [b]) t) ∧ (p.length = 13 → ReadDone (p ++ [b]) t)

/-- R141, R145, R146: a READ accepted with fourteen bytes buffered takes one acceptance step and fourteen
consume steps, is busy throughout, and ends with the decoded value in ACC, the fourteen bytes gone and
everything behind them in place, whatever commands and pushes come meanwhile. -/
def Obligations.ReadOfBufferedFrameTakesFifteenSteps : Prop :=
  ∀ (s : State) (f rest : List Byte), s.busy = false → s.stream = f ++ rest → f.length = 14 →
    (s.inputAt 0).calmCommand .read = true → (∀ k, k < 15 → (s.inputAt k).calm = true) →
    (∀ k, 1 ≤ k → k ≤ 14 → ∃ t : State, run k s = .next t ∧ ReadProgress (f.take (k - 1)) t
        ∧ t.stream = f.drop (k - 1) ++ rest ++ s.arrivedWithin k)
    ∧ ∃ t : State, run 15 s = .next t ∧ ReadDone f t ∧ t.stream = rest ++ s.arrivedWithin 15

/-- R141, R144, R145, for every arrival schedule: from a READ just accepted, and over any number of steps
without reset and overflow, either the READ has completed at some step over the first fourteen bytes that
left the stream, or it is still in progress over the bytes that have left it. -/
def Obligations.ReadDecodesFirstFourteenBytes : Prop :=
  ∀ (n : Nat) (s : State), ReadProgress [] s → (∀ k, k < n → (s.inputAt k).calm = true) →
    (∃ t : State, run n s = .next t ∧ t.stream = (s.stream ++ s.arrivedWithin n).drop t.pos.toNat
        ∧ ReadProgress ((s.stream ++ s.arrivedWithin n).take t.pos.toNat) t)
    ∨ ∃ (c : Nat) (t : State), c ≤ n ∧ run c s = .next t
        ∧ t.stream = (s.stream ++ s.arrivedWithin c).drop 14
        ∧ ReadDone ((s.stream ++ s.arrivedWithin c).take 14) t

/-- R144: on an empty stream with no arrival and no reset a READ in progress holds through any number of
steps, whatever commands are presented. -/
def Obligations.UnderrunHoldsUntilReset : Prop :=
  ∀ (n : Nat) (s : State), s.busy = true → s.stream = [] →
    (∀ k, k < n → (s.inputAt k).rst = false ∧ (s.inputAt k).arrivals = []) →
    run n s = .next { s with inputs := s.inputs.drop n }

/-- R141, R134, R138: the start flag's place, the header, the checksum and the end flag's place have no
effect: two runs whose frames differ only there end in the same state. -/
def Obligations.ReadIgnoresBytesOutsideData : Prop :=
  ∀ (s : State) (f g rest : List Byte), ReadProgress [] s → f.length = 14 → g.length = 14 →
    dataRegion f = dataRegion g → (∀ k, k < 14 → (s.inputAt k).calm = true) →
    run 14 { s with stream := f ++ rest } = run 14 { s with stream := g ++ rest }

/-- R27: a READ accepted, and the result of a POLL, do not depend on what the registers held. -/
def Obligations.OperationsForgetEarlierResults : Prop :=
  ∀ s u : State, s.busy = false → u.busy = false → s.stream = u.stream → s.inputs = u.inputs →
    s.currentInput.rst = false →
    (s.presented = .read → step s = step u)
    ∧ (s.presented = .poll → ∀ t v : State, step s = .next t → step u = .next v →
        t.avail = v.avail ∧ t.stream = v.stream)

/-- R95, R119, R141: SYNC then READ. Over stray bytes before a buffered frame, one POLL a stray byte and one
more make `avail` rise, and the READ that follows returns the decode of the frame's data region. -/
def Obligations.GetcodeReturnsDecodedFrame : Prop :=
  ∀ (s : State) (g f rest : List Byte), s.busy = false → s.stream = g ++ f ++ rest →
    (∀ b ∈ g, b ≠ 0x02#8) → f.length = 14 → f.head? = some 0x02#8 →
    (∀ k, k ≤ g.length → (s.inputAt k).calmCommand .poll = true) →
    (s.inputAt (g.length + 1)).calmCommand .read = true →
    (∀ k, k < g.length + 16 → (s.inputAt k).calm = true) →
    (∃ t : State, run (g.length + 1) s = .next t ∧ t.portAvail = true)
    ∧ ∃ t : State, run (g.length + 16) s = .next t ∧ t.portBusy = false
        ∧ t.portCode = decodeData (dataRegion f) ∧ t.portAvail = false
        ∧ t.stream = rest ++ s.arrivedWithin (g.length + 16)

/-- R92, R141, under the premise of U3 that every host platform's parse agrees on: the READ of a conforming
frame with data digits '0' to '9' and 'A' to 'F' leaves the value of data byte k in bits 31-4k to 28-4k of
`code`. -/
def Obligations.ConformingFrameReadsAsItsTagCode : Prop :=
  ∀ (s : State) (f rest : List Byte), s.busy = false → s.stream = f ++ rest →
    conformingFrame f = true → tagDigits (dataRegion f) = true →
    (s.inputAt 0).calmCommand .read = true → (∀ k, k < 15 → (s.inputAt k).calm = true) →
    ∃ t : State, run 15 s = .next t ∧ t.portBusy = false
      ∧ ∀ k, k < 8 → t.portCode.extractLsb' (28 - 4 * k) 4 = hexVal (f.getD (3 + k) 0#8)

/-! ### The decoder -/

/-- R91: IsHex and HexVal by the ranges of the rule, HexVal also by its second form, on all 256
bytes; 22 of them are digits. -/
def Obligations.HexDigitRanges : Prop :=
  ((List.range 256).filter fun n => isHex (BitVec.ofNat 8 n)).length = 22
  ∧ ∀ b : Byte,
    (isHex b = true ↔ (0x30 ≤ b.toNat ∧ b.toNat ≤ 0x39) ∨ (0x41 ≤ b.toNat ∧ b.toNat ≤ 0x46)
      ∨ (0x61 ≤ b.toNat ∧ b.toNat ≤ 0x66))
    ∧ (0x30 ≤ b.toNat → b.toNat ≤ 0x39 →
        (hexVal b).toNat = b.toNat - 0x30 ∧ hexVal b = b.extractLsb' 0 4)
    ∧ (0x41 ≤ b.toNat → b.toNat ≤ 0x46 →
        (hexVal b).toNat = b.toNat - 0x41 + 10 ∧ hexVal b = b.extractLsb' 0 4 + 9#4)
    ∧ (0x61 ≤ b.toNat → b.toNat ≤ 0x66 →
        (hexVal b).toNat = b.toNat - 0x61 + 10 ∧ hexVal b = b.extractLsb' 0 4 + 9#4)

/-- R92, R59: eight hex digits decode to their nibbles side by side, the first most significant. -/
def Obligations.EightDigitsDecodeToTheirNibbles : Prop :=
  ∀ d0 d1 d2 d3 d4 d5 d6 d7 : Byte,
    [d0, d1, d2, d3, d4, d5, d6, d7].all isHex = true →
    decodeData [d0, d1, d2, d3, d4, d5, d6, d7] =
      hexVal d0 ++ hexVal d1 ++ hexVal d2 ++ hexVal d3 ++ hexVal d4 ++ hexVal d5 ++ hexVal d6 ++ hexVal d7

/-- R142: no data region of up to eight bytes decodes to a value that ACC cannot hold; overflow cannot
occur. -/
def Obligations.DecodedValueFitsAccumulator : Prop :=
  ∀ d : List Byte, d.length ≤ 8 →
    decodeNat d < 16 ^ d.length ∧ (decodeData d).toNat = decodeNat d

/-- R137: the value of malformed data is that of the digits before the first byte that is none. -/
def Obligations.MalformedDataDecodesToDigitPrefix : Prop :=
  ∀ (d e : List Byte) (b : Byte), d.all isHex = true → isHex b = false →
    decodeData (d ++ b :: e) = decodeData d

/-! ### Who writes which register -/

/-- R21: ACC is written by reset, READ acceptance and a READ data step, and by nothing else. -/
def Obligations.AccumulatorIsWrittenOnlyByReadAndReset : Prop :=
  ∀ s t : State, step s = .next t →
    (s.currentInput.rst = true → t.acc = 0#32)
    ∧ (s.currentInput.rst = false → s.busy = false →
        t.acc = if s.presented = .read then 0#32 else s.acc)
    ∧ (s.currentInput.rst = false → s.busy = true → s.stream = [] → t.acc = s.acc)
    ∧ ∀ b rest, s.currentInput.rst = false → s.busy = true → s.stream = b :: rest →
        t.acc =
          if 3 ≤ s.pos.toNat ∧ s.pos.toNat ≤ 10 ∧ s.stop = false ∧ isHex b = true
          then shiftDigit s.acc (hexVal b) else s.acc

/-- R22: POS is written by reset, READ acceptance and consume steps, which at positions 0 to 13 advance it by
one and return it to 0 after position 13. At POS 14 and 15, which R22 says are never reached, the sum on four
bits (15, and from 15 wrapping to 0) is no rule of the spec but the model's choice (log 11, DEDUCED); under
`State.Inv` (StepKeepsRegisterInvariant) only the clauses of R22 are left. -/
def Obligations.PositionAdvancesByConsumedBytesOnly : Prop :=
  ∀ s t : State, step s = .next t →
    (s.currentInput.rst = true → t.pos = 0#4)
    ∧ (s.currentInput.rst = false → s.busy = false →
        t.pos = if s.presented = .read then 0#4 else s.pos)
    ∧ (s.currentInput.rst = false → s.busy = true →
        t.pos = if s.stream = [] then s.pos else if s.pos = 13#4 then 0#4 else s.pos + 1#4)

/-- R23, R26: BUSY rises at READ acceptance only, and falls at a reset or at the step that consumes the byte
at position 13 only. That a consume step at POS 14 or 15 leaves BUSY at 1 is no rule of the spec but the
model's choice (log 11, DEDUCED); under `State.Inv` (StepKeepsRegisterInvariant) only the clauses of R23 and
R26 are left. -/
def Obligations.BusyRisesAtReadAndFallsAtLastByte : Prop :=
  ∀ s t : State, step s = .next t →
    (s.busy = false →
      (t.busy = true ↔ s.currentInput.rst = false ∧ s.presented = .read))
    ∧ (s.busy = true →
        (t.busy = false ↔ s.currentInput.rst = true ∨ (s.pos = 13#4 ∧ s.stream ≠ [])))

/-- R24: STOP is cleared by reset and READ acceptance, set by a data byte that is no hex digit, and written
by nothing else. -/
def Obligations.StopIsSetByNonHexDataOnly : Prop :=
  ∀ s t : State, step s = .next t →
    (s.currentInput.rst = true → t.stop = false)
    ∧ (s.currentInput.rst = false → s.busy = false →
        t.stop = if s.presented = .read then false else s.stop)
    ∧ (s.currentInput.rst = false → s.busy = true → s.stream = [] → t.stop = s.stop)
    ∧ ∀ b rest, s.currentInput.rst = false → s.busy = true → s.stream = b :: rest →
        t.stop =
          if 3 ≤ s.pos.toNat ∧ s.pos.toNat ≤ 10 ∧ isHex b = false then true else s.stop

/-- R25: AVAIL holds the result of the latest POLL since the last reset or READ acceptance. -/
def Obligations.AvailHoldsLatestPollResult : Prop :=
  ∀ s t : State, step s = .next t →
    (s.currentInput.rst = true → t.avail = false)
    ∧ (s.currentInput.rst = false → s.busy = true → t.avail = s.avail)
    ∧ (s.currentInput.rst = false → s.busy = false → s.presented = .read → t.avail = false)
    ∧ (s.currentInput.rst = false → s.busy = false → s.presented = .poll →
        (t.avail = true ↔ s.stream.head? = some 0x02#8 ∧ 14 ≤ s.stream.length))
    ∧ (s.currentInput.rst = false → s.busy = false → s.presented ≠ .read → s.presented ≠ .poll →
        t.avail = s.avail)

/-- R39 (a) to (d): every step, from any state that meets the invariant, gives a state that meets it. -/
def Obligations.StepKeepsRegisterInvariant : Prop :=
  ∀ s t : State, s.Inv → step s = .next t → t.Inv

/-- R142: every step keeps the bound on the accumulated digits. -/
def Obligations.StepKeepsAccumulatorBound : Prop :=
  ∀ s t : State, s.Inv → s.AccBounded → step s = .next t → t.AccBounded

/-! ### FLUSH and NOP -/

/-- R160: FLUSH changes nothing, and the step that presents it pops nothing. -/
def Obligations.FlushChangesNothing : Prop :=
  ∀ s : State, exec .flush s = .next s
    ∧ (s.currentInput.rst = false → s.busy = false → s.presented = .flush → s.portPop = false)

/-- R162, R83: both forms of NOP change nothing, and the step that presents one pops nothing. -/
def Obligations.NopChangesNothing : Prop :=
  ∀ (s : State) (x : CmdCode), exec .nop s = .next s ∧ exec (.nopIdle x) s = .next s
    ∧ (s.currentInput.rst = false → s.busy = false → (s.presented = .nop ∨ s.presented = .nopIdle x) →
        s.portPop = false)
end

