-- ==== Sys2Proof/Laws/Decoder.lean ====
section
/-! SUPPORT. How `Decode` (R141) grows with each data byte, and the digit shift as bits. -/

namespace Sys2Proof.Machine

/-- `{ACC[27:0], n}`: the two spellings of R135 agree. -/
theorem shiftDigit_eq_append (a : Code) (n : Nibble) : shiftDigit a n = a.extractLsb' 0 28 ++ n := by
  apply BitVec.eq_of_getLsbD_eq
  intro i hi
  rw [shiftDigit, BitVec.getLsbD_append]
  simp only [BitVec.getLsbD_or, BitVec.getLsbD_shiftLeft, BitVec.getLsbD_setWidth,
    BitVec.getLsbD_extractLsb']
  by_cases h : i < 4
  · simp [h]; intro; omega
  · have : n.getLsbD i = false := BitVec.getLsbD_of_ge _ _ (by omega)
    simp [h, this, show i < 32 by omega, show i - 4 < 28 by omega]

theorem takeWhile_of_all {d : List Byte} (h : d.all isHex = true) : d.takeWhile isHex = d := by
  induction d with
  | nil => rfl
  | cons b d ih => simp_all

/-- Bytes behind the first bad one do not reach the leading digits. -/
theorem takeWhile_append_of_bad {d : List Byte} (e : List Byte) (h : d.any (fun b => !isHex b) = true) :
    (d ++ e).takeWhile isHex = d.takeWhile isHex := by
  induction d with
  | nil => simp at h
  | cons b d ih =>
    cases hb : isHex b with
    | false => simp [hb]
    | true =>
      have h' : d.any (fun b => !isHex b) = true := by simpa [hb] using h
      simp [hb, ih h']

theorem digitCount_of_all {d : List Byte} (h : d.all isHex = true) : digitCount d = d.length := by
  rw [digitCount, takeWhile_of_all h]

theorem digitCount_le (d : List Byte) : digitCount d ≤ d.length := by
  unfold digitCount
  induction d with
  | nil => simp
  | cons b d ih => by_cases hb : isHex b = true <;> simp [hb] <;> omega

theorem getD_append_of_lt {d e : List Byte} {k : Nat} (h : k < d.length) :
    (d ++ e).getD k 0#8 = d.getD k 0#8 := by
  simp only [List.getD_eq_getElem?_getD, List.getElem?_append_left h]

/-- The value is that of the leading digits alone. -/
theorem decodeNat_append_of_bad {d : List Byte} (e : List Byte)
    (h : d.any (fun b => !isHex b) = true) : decodeNat (d ++ e) = decodeNat d := by
  have hc : digitCount (d ++ e) = digitCount d := by
    simp only [digitCount, takeWhile_append_of_bad e h]
  unfold decodeNat
  rw [hc]
  congr 1
  apply List.map_congr_left
  intro k hk
  have hk' : k < d.length := Nat.lt_of_lt_of_le (List.mem_range.mp hk) (digitCount_le d)
  rw [getD_append_of_lt hk']

theorem sum_map_mul (l : List Nat) (f g : Nat → Nat) (c : Nat) (h : ∀ k ∈ l, f k = c * g k) :
    (l.map f).sum = c * (l.map g).sum := by
  induction l with
  | nil => simp
  | cons a l ih =>
    simp only [List.map_cons, List.sum_cons, h a (by simp), Nat.mul_add,
      ih (fun k hk => h k (by simp [hk]))]

/-- One more digit: the recurrence behind the sum of R92. -/
theorem decodeNat_snoc_digit {d : List Byte} {b : Byte} (h : d.all isHex = true) (hb : isHex b = true) :
    decodeNat (d ++ [b]) = 16 * decodeNat d + (hexVal b).toNat := by
  have hc : digitCount (d ++ [b]) = d.length + 1 := by
    rw [digitCount_of_all (by simp [h, hb])]; simp
  have key : ((List.range d.length).map fun k =>
      (hexVal ((d ++ [b]).getD k 0#8)).toNat * 16 ^ (d.length + 1 - 1 - k)).sum
      = 16 * ((List.range d.length).map fun k =>
          (hexVal (d.getD k 0#8)).toNat * 16 ^ (d.length - 1 - k)).sum := by
    apply sum_map_mul
    intro k hk
    have hk' : k < d.length := List.mem_range.mp hk
    rw [getD_append_of_lt hk', show d.length + 1 - 1 - k = (d.length - 1 - k) + 1 by omega, Nat.pow_succ]
    ac_rfl
  unfold decodeNat
  rw [hc, digitCount_of_all h, List.range_succ, List.map_append, List.sum_append, key]
  simp

end Sys2Proof.Machine
end

