-- ==== Sys2Proof/Laws/Operands.lean ====
section
/-! SUPPORT. The frame's fields, the digit shift, and POLL's branches: one lemma for each case. -/

namespace Sys2Proof.Machine

theorem frameField_hdr {p : Pos} (h : p.toNat ≤ 2) : frameField p = .hdr := by
  simp [frameField, Config.headerLen, h]

theorem frameField_data {p : Pos} (h : 3 ≤ p.toNat) (h' : p.toNat ≤ 10) : frameField p = .data := by
  have : ¬ p.toNat ≤ 2 := by omega
  simp [frameField, Config.headerLen, Config.dataLen, h', this]

theorem frameField_tail {p : Pos} (h : 11 ≤ p.toNat) : frameField p = .tail := by
  have h2 : ¬ p.toNat ≤ 2 := by omega
  have h10 : ¬ p.toNat ≤ 10 := by omega
  simp [frameField, Config.headerLen, Config.dataLen, h2, h10]

/-- The shift as arithmetic, where no bit is dropped (R142). -/
theorem shiftDigit_toNat {acc : Code} (n : Nibble) (h : acc.toNat < 2 ^ 28) :
    (shiftDigit acc n).toNat = acc.toNat * 16 + n.toNat := by
  have hn : n.toNat < 2 ^ 4 := n.isLt
  have hs : (acc <<< 4).toNat = acc.toNat <<< 4 := by
    rw [BitVec.toNat_shiftLeft, Nat.shiftLeft_eq]
    exact Nat.mod_eq_of_lt (by omega)
  have hw : (n.setWidth 32).toNat = n.toNat := by
    rw [BitVec.toNat_setWidth]; exact Nat.mod_eq_of_lt (by omega)
  rw [shiftDigit, BitVec.toNat_or, hs, hw, ← Nat.shiftLeft_add_eq_or_of_lt hn, Nat.shiftLeft_eq]

theorem pollBranch_empty (h : Byte) : pollBranch 0 h = .empty := rfl

theorem pollBranch_stray {n : Nat} {h : Byte} (hn : n ≠ 0) (hh : h ≠ 0x02#8) :
    pollBranch n h = .stray := by
  simp [pollBranch, Config.startFlag, hn, hh]

theorem pollBranch_complete {n : Nat} (hn : 14 ≤ n) : pollBranch n 0x02#8 = .complete := by
  have h0 : n ≠ 0 := by omega
  simp [pollBranch, Config.startFlag, h0, Config.packetLen, Config.headerLen, Config.dataLen,
    Config.checksumLen, hn]

theorem pollBranch_incomplete {n : Nat} (h0 : n ≠ 0) (hn : n < 14) :
    pollBranch n 0x02#8 = .incomplete := by
  have h' : ¬ 14 ≤ n := by omega
  simp [pollBranch, Config.startFlag, h0, Config.packetLen, Config.headerLen, Config.dataLen,
    Config.checksumLen, h']

end Sys2Proof.Machine
end

