-- ==== Sys2Proof/Laws/PerInstr.lean ====
section
/-! SUPPORT. The statement families that are proved command by command. -/

namespace Sys2Proof.Laws.RoundTrip

/-- The word of a well-formed command decodes to it, and lies in the table's row of its mnemonic (R82). -/
def Statement (i : Instr) : Prop :=
  i.wf = true → decode (encode i) = i ∧ (matchingRows (encode i)).map (·.1) = [i.mnemonic]

theorem nopIdle (x : CmdCode) : Statement (.nopIdle x) := fun _ => by revert x; decide
theorem nop : Statement .nop := fun _ => by decide
theorem poll : Statement .poll := fun _ => by decide
theorem read : Statement .read := fun _ => by decide
theorem flush : Statement .flush := fun _ => by decide

end Sys2Proof.Laws.RoundTrip
end

