-- ==== Sys2Proof/Laws/State.lean ====
section
/-! SUPPORT. One lemma per field per named update, so that no proof unfolds a record update. -/

namespace Sys2Proof.Machine

variable (s : State)

@[simp] theorem State.pop_acc : s.pop.acc = s.acc := rfl
@[simp] theorem State.pop_pos : s.pop.pos = s.pos := rfl
@[simp] theorem State.pop_busy : s.pop.busy = s.busy := rfl
@[simp] theorem State.pop_stop : s.pop.stop = s.stop := rfl
@[simp] theorem State.pop_avail : s.pop.avail = s.avail := rfl
@[simp] theorem State.pop_stream : s.pop.stream = s.stream.tail := rfl
@[simp] theorem State.pop_inputs : s.pop.inputs = s.inputs := rfl

@[simp] theorem State.setAvail_acc (v : Bool) : (s.setAvail v).acc = s.acc := rfl
@[simp] theorem State.setAvail_pos (v : Bool) : (s.setAvail v).pos = s.pos := rfl
@[simp] theorem State.setAvail_busy (v : Bool) : (s.setAvail v).busy = s.busy := rfl
@[simp] theorem State.setAvail_stop (v : Bool) : (s.setAvail v).stop = s.stop := rfl
@[simp] theorem State.setAvail_avail (v : Bool) : (s.setAvail v).avail = v := rfl
@[simp] theorem State.setAvail_stream (v : Bool) : (s.setAvail v).stream = s.stream := rfl
@[simp] theorem State.setAvail_inputs (v : Bool) : (s.setAvail v).inputs = s.inputs := rfl

@[simp] theorem State.shiftIn_acc (n : Nibble) : (s.shiftIn n).acc = shiftDigit s.acc n := rfl
@[simp] theorem State.shiftIn_pos (n : Nibble) : (s.shiftIn n).pos = s.pos := rfl
@[simp] theorem State.shiftIn_busy (n : Nibble) : (s.shiftIn n).busy = s.busy := rfl
@[simp] theorem State.shiftIn_stop (n : Nibble) : (s.shiftIn n).stop = s.stop := rfl
@[simp] theorem State.shiftIn_avail (n : Nibble) : (s.shiftIn n).avail = s.avail := rfl
@[simp] theorem State.shiftIn_stream (n : Nibble) : (s.shiftIn n).stream = s.stream := rfl
@[simp] theorem State.shiftIn_inputs (n : Nibble) : (s.shiftIn n).inputs = s.inputs := rfl

@[simp] theorem State.setStop_acc : s.setStop.acc = s.acc := rfl
@[simp] theorem State.setStop_pos : s.setStop.pos = s.pos := rfl
@[simp] theorem State.setStop_busy : s.setStop.busy = s.busy := rfl
@[simp] theorem State.setStop_stop : s.setStop.stop = true := rfl
@[simp] theorem State.setStop_avail : s.setStop.avail = s.avail := rfl
@[simp] theorem State.setStop_stream : s.setStop.stream = s.stream := rfl
@[simp] theorem State.setStop_inputs : s.setStop.inputs = s.inputs := rfl

@[simp] theorem State.resetRegisters_acc : s.resetRegisters.acc = 0#32 := rfl
@[simp] theorem State.resetRegisters_pos : s.resetRegisters.pos = 0#4 := rfl
@[simp] theorem State.resetRegisters_busy : s.resetRegisters.busy = false := rfl
@[simp] theorem State.resetRegisters_stop : s.resetRegisters.stop = false := rfl
@[simp] theorem State.resetRegisters_avail : s.resetRegisters.avail = false := rfl
@[simp] theorem State.resetRegisters_stream : s.resetRegisters.stream = s.stream := rfl
@[simp] theorem State.resetRegisters_inputs : s.resetRegisters.inputs = s.inputs := rfl

@[simp] theorem State.acceptRead_acc : s.acceptRead.acc = 0#32 := rfl
@[simp] theorem State.acceptRead_pos : s.acceptRead.pos = 0#4 := rfl
@[simp] theorem State.acceptRead_busy : s.acceptRead.busy = true := rfl
@[simp] theorem State.acceptRead_stop : s.acceptRead.stop = false := rfl
@[simp] theorem State.acceptRead_avail : s.acceptRead.avail = false := rfl
@[simp] theorem State.acceptRead_stream : s.acceptRead.stream = s.stream := rfl
@[simp] theorem State.acceptRead_inputs : s.acceptRead.inputs = s.inputs := rfl

@[simp] theorem State.endCycle_acc : s.endCycle.acc = s.acc := rfl
@[simp] theorem State.endCycle_pos : s.endCycle.pos = s.pos := rfl
@[simp] theorem State.endCycle_busy : s.endCycle.busy = s.busy := rfl
@[simp] theorem State.endCycle_stop : s.endCycle.stop = s.stop := rfl
@[simp] theorem State.endCycle_avail : s.endCycle.avail = s.avail := rfl
@[simp] theorem State.endCycle_stream :
    s.endCycle.stream = arriveAll s.stream s.currentInput.arrivals := rfl
@[simp] theorem State.endCycle_inputs : s.endCycle.inputs = s.inputs.tail := rfl

@[simp] theorem State.advancePos_acc : s.advancePos.acc = s.acc := by
  unfold State.advancePos; split <;> rfl
@[simp] theorem State.advancePos_stop : s.advancePos.stop = s.stop := by
  unfold State.advancePos; split <;> rfl
@[simp] theorem State.advancePos_avail : s.advancePos.avail = s.avail := by
  unfold State.advancePos; split <;> rfl
@[simp] theorem State.advancePos_stream : s.advancePos.stream = s.stream := by
  unfold State.advancePos; split <;> rfl
@[simp] theorem State.advancePos_inputs : s.advancePos.inputs = s.inputs := by
  unfold State.advancePos; split <;> rfl
theorem State.advancePos_pos : s.advancePos.pos = if s.pos = 13#4 then 0#4 else s.pos + 1#4 := by
  unfold State.advancePos; split <;> rfl
theorem State.advancePos_busy : s.advancePos.busy = if s.pos = 13#4 then false else s.busy := by
  unfold State.advancePos; split <;> rfl

/-! ### The stream -/

theorem arriveAll_nil (bs : List Byte) : arriveAll bs [] = bs := rfl

theorem arriveAll_cons (bs : List Byte) (a : Arrival) (as : List Arrival) :
    arriveAll bs (a :: as) = arriveAll (arrive bs a) as := rfl

theorem State.count_eq_zero_iff : s.count = 0 ↔ s.stream = [] := by
  simp [State.count, List.length_eq_zero_iff]

theorem State.peek_of_cons {b : Byte} {rest : List Byte} (h : s.stream = b :: rest) : s.peek = b := by
  simp [State.peek, h]

end Sys2Proof.Machine
end

