-- ==== Sys2Proof/Laws/Read.lean ====
section
/-! SUPPORT. What a consume step of READ can do, said once. -/

namespace Sys2Proof.Machine

variable (s : State) (b : Byte)

@[simp] theorem State.dataByte_pos : (s.dataByte b).pos = s.pos := by
  unfold State.dataByte; split; · rfl
  split <;> rfl
@[simp] theorem State.dataByte_busy : (s.dataByte b).busy = s.busy := by
  unfold State.dataByte; split; · rfl
  split <;> rfl
@[simp] theorem State.dataByte_avail : (s.dataByte b).avail = s.avail := by
  unfold State.dataByte; split; · rfl
  split <;> rfl
@[simp] theorem State.dataByte_stream : (s.dataByte b).stream = s.stream := by
  unfold State.dataByte; split; · rfl
  split <;> rfl
@[simp] theorem State.dataByte_inputs : (s.dataByte b).inputs = s.inputs := by
  unfold State.dataByte; split; · rfl
  split <;> rfl
theorem State.dataByte_acc : (s.dataByte b).acc =
    if s.stop = false ∧ isHex b = true then shiftDigit s.acc (hexVal b) else s.acc := by
  unfold State.dataByte
  cases hs : s.stop <;> cases hb : isHex b <;> simp
theorem State.dataByte_stop : (s.dataByte b).stop = (s.stop || !isHex b) := by
  unfold State.dataByte
  cases hs : s.stop <;> cases hb : isHex b <;> simp [hs]

@[simp] theorem State.fieldAction_pos : (s.fieldAction b).pos = s.pos := by
  unfold State.fieldAction; split <;> simp
@[simp] theorem State.fieldAction_busy : (s.fieldAction b).busy = s.busy := by
  unfold State.fieldAction; split <;> simp
@[simp] theorem State.fieldAction_avail : (s.fieldAction b).avail = s.avail := by
  unfold State.fieldAction; split <;> simp
@[simp] theorem State.fieldAction_stream : (s.fieldAction b).stream = s.stream := by
  unfold State.fieldAction; split <;> simp
@[simp] theorem State.fieldAction_inputs : (s.fieldAction b).inputs = s.inputs := by
  unfold State.fieldAction; split <;> simp
theorem State.fieldAction_acc : (s.fieldAction b).acc =
    if frameField s.pos = .data ∧ s.stop = false ∧ isHex b = true
    then shiftDigit s.acc (hexVal b) else s.acc := by
  unfold State.fieldAction; split <;> simp [*, State.dataByte_acc]
theorem State.fieldAction_stop : (s.fieldAction b).stop =
    (s.stop || (decide (frameField s.pos = .data) && !isHex b)) := by
  unfold State.fieldAction; split <;> simp [*, State.dataByte_stop]

/-! The consume step, field by field (R132, R134, R135, R137, R138, R140). -/

theorem State.consume_acc : s.consume.acc =
    if frameField s.pos = .data ∧ s.stop = false ∧ isHex s.peek = true
    then shiftDigit s.acc (hexVal s.peek) else s.acc := by
  rw [State.consume, State.advancePos_acc, State.fieldAction_acc]; rfl
theorem State.consume_stop : s.consume.stop =
    (s.stop || (decide (frameField s.pos = .data) && !isHex s.peek)) := by
  rw [State.consume, State.advancePos_stop, State.fieldAction_stop]; rfl
theorem State.consume_pos : s.consume.pos = if s.pos = 13#4 then 0#4 else s.pos + 1#4 := by
  simp [State.consume, State.advancePos_pos]
theorem State.consume_busy : s.consume.busy = if s.pos = 13#4 then false else s.busy := by
  simp [State.consume, State.advancePos_busy]
@[simp] theorem State.consume_avail : s.consume.avail = s.avail := by simp [State.consume]
@[simp] theorem State.consume_stream : s.consume.stream = s.stream.tail := by simp [State.consume]
@[simp] theorem State.consume_inputs : s.consume.inputs = s.inputs := by simp [State.consume]

theorem State.readContinue_hold (h : s.stream = []) : s.readContinue = s := by
  simp [State.readContinue, State.count, h]
theorem State.readContinue_consume (h : s.stream ≠ []) : s.readContinue = s.consume := by
  simp [State.readContinue, State.count, h]
@[simp] theorem State.readContinue_avail : s.readContinue.avail = s.avail := by
  unfold State.readContinue; split <;> simp
@[simp] theorem State.readContinue_inputs : s.readContinue.inputs = s.inputs := by
  unfold State.readContinue; split <;> simp
@[simp] theorem State.readContinue_stream : s.readContinue.stream = s.stream.tail := by
  unfold State.readContinue; split
  · next h => rw [State.count_eq_zero_iff] at h; simp [h]
  · simp

end Sys2Proof.Machine
end

