-- ==== Sys2Proof/Laws/Step.lean ====
section
/-! SUPPORT. What a step can do, said once, and how runs unfold. -/

namespace Sys2Proof.Machine

variable {s t : State}

theorem step_reset (h : s.currentInput.rst = true) :
    step s = .next s.resetRegisters.endCycle := by
  simp [step, cycle, blockCycle, h]

theorem step_busy (h : s.currentInput.rst = false) (hb : s.busy = true) :
    step s = .next s.readContinue.endCycle := by
  simp [step, cycle, blockCycle, h, hb]

theorem step_idle (h : s.currentInput.rst = false) (hb : s.busy = false)
    (he : exec s.presented s = .next t) : step s = .next t.endCycle := by
  simp [step, cycle, blockCycle, h, hb, he]

/-- The state a POLL leaves (R110). -/
theorem exec_poll_eq (s : State) : exec .poll s =
    .next ((if pollPops s.pollBranch then s.pop else s).setAvail (pollResult s.pollBranch)) := rfl

/-- Every step is one of these, and the guards are those of R178. -/
theorem step_cases {u : State} (h : step s = .next u) :
    (s.currentInput.rst = true ∧ u = s.resetRegisters.endCycle) ∨
    (s.currentInput.rst = false ∧ s.busy = true ∧ s.stream = [] ∧ u = s.endCycle) ∨
    (s.currentInput.rst = false ∧ s.busy = true ∧ s.stream ≠ [] ∧ u = s.consume.endCycle) ∨
    (s.currentInput.rst = false ∧ s.busy = false ∧ s.presented = .poll ∧
      u = ((if pollPops s.pollBranch then s.pop else s).setAvail (pollResult s.pollBranch)).endCycle) ∨
    (s.currentInput.rst = false ∧ s.busy = false ∧ s.presented = .read ∧ u = s.acceptRead.endCycle) ∨
    (s.currentInput.rst = false ∧ s.busy = false ∧ s.presented ≠ .poll ∧ s.presented ≠ .read ∧
      u = s.endCycle) := by
  cases hr : s.currentInput.rst with
  | true => rw [step_reset hr] at h; cases h; exact .inl ⟨rfl, rfl⟩
  | false =>
    cases hb : s.busy with
    | true =>
      rw [step_busy hr hb] at h; cases h
      by_cases he : s.stream = []
      · exact .inr (.inl ⟨rfl, rfl, he, by rw [State.readContinue_hold s he]⟩)
      · exact .inr (.inr (.inl ⟨rfl, rfl, he, by rw [State.readContinue_consume s he]⟩))
    | false =>
      refine .inr (.inr (.inr ?_))
      cases hi : s.presented with
      | poll => rw [step_idle hr hb (by rw [hi]; exact exec_poll_eq s)] at h; cases h; simp
      | read => rw [step_idle hr hb (t := s.acceptRead) (by rw [hi]; rfl)] at h; cases h; simp
      | nopIdle x => rw [step_idle hr hb (t := s) (by rw [hi]; rfl)] at h; cases h; simp
      | nop => rw [step_idle hr hb (t := s) (by rw [hi]; rfl)] at h; cases h; simp
      | flush => rw [step_idle hr hb (t := s) (by rw [hi]; rfl)] at h; cases h; simp

/-- A step moves the schedule on by one. -/
theorem step_inputs (h : step s = .next t) : t.inputs = s.inputs.tail := by
  obtain ⟨_, rfl⟩ | ⟨_, _, _, rfl⟩ | ⟨_, _, _, rfl⟩ | ⟨_, _, _, rfl⟩ | ⟨_, _, _, rfl⟩ | ⟨_, _, _, _, rfl⟩ :=
    step_cases h <;> simp
  split <;> simp

theorem State.inputAt_zero (s : State) : s.inputAt 0 = s.currentInput := by
  unfold State.inputAt State.currentInput; cases s.inputs <;> rfl

theorem step_inputAt (h : step s = .next t) (k : Nat) : t.inputAt k = s.inputAt (k + 1) := by
  unfold State.inputAt; rw [step_inputs h]; cases s.inputs <;> rfl

/-! ### Runs -/

theorem run_zero (s : State) : run 0 s = .next s := rfl

theorem run_succ (h : step s = .next t) (n : Nat) : run (n + 1) s = run n t := by
  have h' : Sys2Proof.core.step s = .next t := h
  simp only [run, Host.Core.run, h']; rfl

/-! ### Arrivals without overflow -/

theorem arriveAll_of_pushes (bs : List Byte) (as : List Arrival) (h : as.all Arrival.isPush = true) :
    arriveAll bs as = bs ++ as.map Arrival.byte := by
  induction as generalizing bs with
  | nil => simp [arriveAll]
  | cons a as ih =>
    cases a with
    | push b =>
      have h' : as.all Arrival.isPush = true := by simpa [Arrival.isPush] using h
      rw [arriveAll_cons, ih _ h']; simp [arrive, Arrival.byte]
    | overflow b => simp [Arrival.isPush] at h

theorem State.arrivedWithin_zero (s : State) : s.arrivedWithin 0 = [] := rfl

/-- The bytes of `n + 1` steps are those of the coming step and those of the `n` steps after it. -/
theorem arrivedWithin_succ (h : step s = .next t) (n : Nat) :
    s.arrivedWithin (n + 1) = s.currentInput.arrivals.map Arrival.byte ++ t.arrivedWithin n := by
  unfold State.arrivedWithin State.currentInput arrivedBytes
  rw [step_inputs h]; cases s.inputs <;> simp [StepInput.idle]

end Sys2Proof.Machine
end

