-- ==== Sys2Proof/Tests/Slice0.lean ====
section
/-! SUPPORT. The author's own tests, and for each statement of Certificates/Slice0/Obligations.lean that has
hypotheses a concrete input that meets them all. Expected values are those of spec/95_test_vectors.md. -/

namespace Sys2Proof.Tests

open Sys2Proof.Machine

/-! ### Small states -/

/-- The frame of S4: header 11 22, data "0000ABCD", checksum 33 44 (95_test_vectors.md S4, N20). -/
def frameAbcd : List Byte :=
  [0x02, 0x11, 0x22, 0x30, 0x30, 0x30, 0x30, 0x41, 0x42, 0x43, 0x44, 0x33, 0x44, 0x03]

/-- V4 row 2: the same data region among start-flag values. -/
def frameFlags : List Byte :=
  [0x02, 0x02, 0x02, 0x30, 0x30, 0x30, 0x30, 0x41, 0x42, 0x43, 0x44, 0x02, 0x02, 0x02]

/-- An idle block over this stream, with these inputs to come. -/
def idle (bs : List Byte) (is : List StepInput) : State := { State.reset with stream := bs, inputs := is }

/-- A READ in progress at this position, over this stream, with no input scheduled. -/
def reading (p : Pos) (bs : List Byte) : State :=
  { State.reset with pos := p, busy := true, stream := bs }

/-! ### Checks on parameters and frames -/

theorem test_params_smallest_legal : ({ cw := 4, fifoDepth := 14 } : Params).wf = true := by decide
theorem test_params_count_too_narrow : ({ cw := 3, fifoDepth := 7 } : Params).cwWide = false := by decide
theorem test_params_fifo_below_a_frame :
    ({ cw := 8, fifoDepth := 13 } : Params).depthHoldsFrame = false := by decide
theorem test_params_count_would_wrap : ({ cw := 4, fifoDepth := 16 } : Params).countFits = false := by
  decide
theorem test_params_ill_formed_refused : ({ cw := 3, fifoDepth := 7 } : Params).wf = false
    ∧ ({ cw := 8, fifoDepth := 13 } : Params).wf = false
    ∧ ({ cw := 4, fifoDepth := 16 } : Params).wf = false := by decide
theorem test_every_command_well_formed : [Instr.nopIdle 3, .nop, .poll, .read, .flush].all Instr.wf := by
  decide
theorem test_frame_conforming : conformingFrame frameAbcd = true := by decide
theorem test_frame_wrong_end_flag : conformingFrame frameFlags = false := by decide
theorem test_tag_digits : tagDigits (dataRegion frameAbcd) = true
    ∧ tagDigits [0x61] = false := by decide

/-! ### Decoding: the words of 30_encoding.md R82 and of the table -/

theorem test_decode_nopIdle : decode 0b011#3 = .nopIdle 3#2 := by decide
theorem test_decode_nop : decode 0b100#3 = .nop := by decide
theorem test_decode_poll : decode 0b101#3 = .poll := by decide
theorem test_decode_read : decode 0b110#3 = .read := by decide
theorem test_decode_flush : decode 0b111#3 = .flush := by decide
theorem test_table_words : [0, 4, 5, 6, 7].map (decodeTableWord 3) =
    [some (.nopIdle 0), some .nop, some .poll, some .read, some .flush] := by decide
theorem test_number_above_the_port :
    decodeTableWord 8 8 = none ∧ decodeTableWord 8 5 = some .poll := by decide
theorem test_rejected_by_name : decodeNumber 8 = .error (.bitsAboveThePort 8) := rfl

/-! ### The hex digit (V1) and the decoder (V3) -/

theorem test_hex_edges :
    ([0x2F, 0x3A, 0x40, 0x47, 0x60, 0x67, 0x02, 0x03, 0x00, 0x20, 0x78, 0xFF] : List Byte).all
      (fun b => !isHex b) = true := by decide
theorem test_hex_values : ([0x30, 0x39, 0x41, 0x46, 0x61, 0x66] : List Byte).map hexVal =
    [0, 9, 10, 15, 10, 15] := by decide
theorem test_v3_row1 : decodeData (dataRegion frameAbcd) = 0x0000ABCD#32 := by decide
theorem test_v3_row2 : decodeData [0x44, 0x45, 0x41, 0x44, 0x42, 0x45, 0x45, 0x46] = 0xDEADBEEF#32 := by
  decide
theorem test_v3_row6 : decodeData [0x38, 0x39, 0x61, 0x62, 0x63, 0x64, 0x65, 0x66] = 0x89ABCDEF#32 := by
  decide
theorem test_v3_row12 : decodeData [0x31, 0x32, 0x47, 0x34, 0x35, 0x36, 0x37, 0x38] = 0x12#32 := by decide

/-! ### One step of each command -/

/-- V6 row 3. -/
theorem test_nopIdle_leaves_frame :
    step (idle frameAbcd [{ commandStep .nop [] with cmdValid := false, cmd := 0b10#2 }])
      = .next (idle frameAbcd []) := rfl
/-- V6 row 3, and a push at the same step seen from the next one. -/
theorem test_nop_push_at_tail :
    step (idle [0x41] [commandStep .nop [0x42, 0x43]]) = .next (idle [0x41, 0x42, 0x43] []) := rfl
/-- V2 row 10. -/
theorem test_poll_stray_before_frame :
    step (idle (0x41 :: frameAbcd) [commandStep .poll []]) = .next (idle frameAbcd []) := rfl
/-- V2 row 7. -/
theorem test_poll_complete : step (idle frameAbcd [commandStep .poll []])
    = .next { idle frameAbcd [] with avail := true } := rfl
/-- V8 row 3. -/
theorem test_poll_sees_stream_before_push : step (idle [] [commandStep .poll frameAbcd])
    = .next (idle frameAbcd []) := rfl
/-- P1 step 3. -/
theorem test_read_acceptance :
    step { idle frameAbcd [commandStep .read []] with acc := 0x12#32, stop := true, avail := true }
      = .next (reading 0 frameAbcd) := rfl
/-- V6 row 2. -/
theorem test_flush_keeps_all :
    step { idle frameAbcd [commandStep .flush []] with acc := 0xABCD#32, avail := true }
      = .next { idle frameAbcd [] with acc := 0xABCD#32, avail := true } := rfl

/-! ### The steps of a busy block, and reset -/

/-- P4 step 12: 'G' at position 5. -/
theorem test_consume_bad_digit : step { reading 5 [0x47, 0x34] with acc := 0x12#32 }
    = .next { reading 6 [0x34] with acc := 0x12#32, stop := true } := rfl
/-- P1 step 12: 'B' at position 8. -/
theorem test_consume_digit : step { reading 8 [0x42] with acc := 0xA#32 }
    = .next { reading 9 [] with acc := 0xAB#32 } := rfl
/-- V8 row 4: the last byte ends the READ, and the POLL at the same step is lost. -/
theorem test_last_byte_loses_poll :
    step { reading 13 [0x03] with acc := 0xABCD#32, inputs := [commandStep .poll []] }
      = .next { idle [] [] with acc := 0xABCD#32 } := rfl
/-- P4 step 9. -/
theorem test_hold_ignores_poll :
    step { reading 5 [] with acc := 0x12#32, inputs := [commandStep .poll []] }
      = .next { reading 5 [] with acc := 0x12#32 } := rfl
/-- V7 rows 2 and 3. -/
theorem test_reset_beats_read :
    step { reading 5 [0x33] with acc := 0x12#32, inputs := [{ resetStep [] with cmd := 0b10#2 }] }
      = .next (idle [0x33] []) := rfl

/-! ### Witnesses: hypotheses that a concrete input meets -/

/-- The state of P4 at step 4, mid-READ with more bytes at hand. -/
theorem progress_two : ReadProgress [0x02, 0x11] (reading 2 [0x22, 0x31]) :=
  ⟨rfl, rfl, by decide, rfl, by decide, by decide⟩
theorem progress_none (bs : List Byte) : ReadProgress [] (reading 0 bs) :=
  ⟨rfl, rfl, by decide, rfl, show 0#32 = decodeData (dataRegion []) by decide, rfl⟩
theorem progress_last : ReadProgress (frameAbcd.take 13) { reading 13 [0x03] with acc := 0xABCD#32 } :=
  ⟨rfl, by decide, by decide, rfl, by decide, by decide⟩

theorem witness_ResetStepZeroesRegisters :
    ({ reading 5 [0x33] with inputs := [resetStep []] } : State).currentInput.rst = true := rfl
theorem witness_ResetLeavesBlockIdle : ∃ s t u : State, s.currentInput.rst = true ∧ step s = .next t
    ∧ t.currentInput.rst = false ∧ exec t.presented t = .next u :=
  ⟨idle frameAbcd [resetStep [], commandStep .poll []], _, _, rfl, rfl, rfl, rfl⟩
theorem witness_ResetEstablishesInvariants : ∃ s t : State, s.currentInput.rst = true ∧ step s = .next t :=
  ⟨idle frameAbcd [resetStep []], _, rfl, rfl⟩
theorem witness_DecodeEncodeRoundTrip : (Instr.nopIdle 2).wf = true := rfl
theorem witness_StepRunsPresentedCommand : ∃ s t : State, s.currentInput.rst = false ∧ s.busy = false
    ∧ exec (decode (cmdWordOf s.currentInput.cmdValid s.currentInput.cmd)) s = .next t :=
  ⟨idle frameAbcd [commandStep .poll []], _, rfl, rfl, rfl⟩
theorem witness_PlacedWordIsExecuted : ∃ t : State, decodeTableWord 8 6 = some .read
    ∧ exec .read (State.reset.withFetchWord 8 6) = .next t := ⟨_, rfl, rfl⟩
theorem witness_CommandPortIgnoredWhileBusyOrReset :
    (reading 5 []).busy = true ∧ (idle [] [resetStep []]).currentInput.rst = true := ⟨rfl, rfl⟩
theorem witness_StreamIsPoppedThenExtended : ∃ s t : State, step s = .next t
    ∧ s.currentInput.noOverflow = true :=
  ⟨idle [0x41] [commandStep .poll [0x02]], _, rfl, rfl⟩
/-- Thirteen framed bytes at a POLL, the exception, and fourteen, the rule. -/
theorem witness_PushCommutesWithStep : (∃ s t : State, s.stream ≠ [] ∧ s.currentInput.arrivals = []
      ∧ step s = .next t ∧ s.presented = .poll ∧ s.stream.length = 13)
    ∧ ∃ s t : State, s.stream ≠ [] ∧ s.currentInput.arrivals = [] ∧ step s = .next t
      ∧ s.presented = .poll ∧ s.stream.length = 14 :=
  ⟨⟨idle (frameAbcd.take 13) [commandStep .poll []], _, by decide, rfl, rfl, rfl, rfl⟩,
   ⟨idle frameAbcd [commandStep .poll []], _, by decide, rfl, rfl, rfl, rfl⟩⟩
theorem witness_CountPortIsExactWithinDepth : (idle frameAbcd []).count ≤ Config.fifoDepth :=
  Nat.le_add_right 14 _
theorem witness_PollDiscardsOneStrayByte : ∃ (s : State) (b : Byte) (rest : List Byte),
    s.stream = b :: rest ∧ b ≠ 0x02#8 ∧ s.currentInput.rst = false ∧ s.busy = false
    ∧ s.presented = .poll :=
  ⟨idle (0x82 :: frameAbcd) [commandStep .poll []], _, _, rfl, by decide, rfl, rfl, rfl⟩
theorem witness_PollOnEmptyStreamReportsFalse : ∃ s : State, s.stream = [] ∧ s.currentInput.rst = false
    ∧ s.busy = false ∧ s.presented = .poll :=
  ⟨idle [] [commandStep .poll []], rfl, rfl, rfl, rfl⟩
theorem witness_PollOnFramedStreamComparesCount : ∃ (s : State) (rest : List Byte),
    s.stream = 0x02#8 :: rest ∧ s.currentInput.rst = false ∧ s.busy = false ∧ s.presented = .poll :=
  ⟨idle frameAbcd [commandStep .poll []], _, rfl, rfl, rfl, rfl⟩
theorem witness_PollWritesAvailOnly : ∃ t : State, exec .poll (idle [0x41] []) = .next t := ⟨_, rfl⟩
theorem witness_PollReportsFramedCompletePhase : ∃ s t : State, s.busy = false ∧ exec .poll s = .next t
    ∧ s.phase = .framedComplete := ⟨idle frameAbcd [], _, rfl, rfl, rfl⟩
theorem witness_PollRepeatsUnlessHeadIsStray : ∃ s : State, s.busy = false
    ∧ (s.stream = [] ∨ s.stream.head? = some 0x02#8)
    ∧ ∀ k, k < 2 → (s.inputAt k).calmCommand .poll = true ∧ (s.inputAt k).arrivals = [] :=
  ⟨idle frameAbcd [commandStep .poll [], commandStep .poll []], rfl, by decide, by decide⟩
/-- P2: one stray byte, then a frame. -/
theorem witness_PollsResynchroniseOnFrame : ∃ (s : State) (g f rest : List Byte), s.busy = false
    ∧ s.stream = g ++ f ++ rest ∧ (∀ b ∈ g, b ≠ 0x02#8) ∧ f.length = 14 ∧ f.head? = some 0x02#8
    ∧ 1 ≤ g.length ∧ ∀ k, k ≤ g.length → (s.inputAt k).calmCommand .poll = true :=
  ⟨idle (0x41 :: frameAbcd) [commandStep .poll [], commandStep .poll [0x02]], [0x41], frameAbcd, [], rfl,
    rfl, by decide, rfl, rfl, by decide, fun k hk => by
      have : k = 0 ∨ k = 1 := by simp at hk; omega
      rcases this with rfl | rfl <;> rfl⟩
theorem witness_ShortFramedStreamStays : ∃ (s : State) (rest : List Byte), s.busy = false
    ∧ s.stream = 0x02#8 :: rest ∧ rest.length < 13
    ∧ ∀ k, k < 2 → (s.inputAt k).calmNoRead = true ∧ (s.inputAt k).arrivals = [] :=
  ⟨idle (frameAbcd.take 13) [commandStep .poll [], commandStep .flush []], _, rfl, rfl, by decide,
    by decide⟩
theorem witness_TruePollLastsUntilRead : ∃ s : State, s.busy = false ∧ s.stream.head? = some 0x02#8
    ∧ 14 ≤ s.stream.length ∧ ∀ k, k < 2 → (s.inputAt k).calmNoRead = true :=
  ⟨idle frameAbcd [commandStep .poll [0x02], commandStep .flush []], rfl, rfl, by decide, by decide⟩
theorem witness_ReadAcceptanceClearsAndStarts : ∃ s : State, s.currentInput.rst = false
    ∧ s.busy = false ∧ s.presented = .read := ⟨idle [] [commandStep .read []], rfl, rfl, rfl⟩
theorem witness_ReadHoldsExactlyWhileEmpty :
    (∃ s : State, s.currentInput.rst = false ∧ s.busy = true ∧ s.stream = [])
    ∧ ∃ s : State, s.currentInput.rst = false ∧ s.busy = true ∧ s.stream ≠ [] :=
  ⟨⟨reading 5 [], rfl, rfl, rfl⟩, ⟨reading 5 [0x47], rfl, rfl, by decide⟩⟩
/-- Positions 0 and 2. -/
theorem witness_ReadDiscardsHeaderByte : ∀ p ∈ ([0, 2] : List Pos), (reading p [0x02]).currentInput.rst = false
    ∧ (reading p [0x02]).busy = true ∧ (reading p [0x02]).stream = 0x02#8 :: []
    ∧ (reading p [0x02]).pos.toNat ≤ 2 := by decide
/-- Positions 3 and 10. -/
theorem witness_ReadShiftsHexDigitIn : ∀ p ∈ ([3, 10] : List Pos), (reading p [0x46]).currentInput.rst = false
    ∧ (reading p [0x46]).busy = true ∧ (reading p [0x46]).stream = 0x46#8 :: []
    ∧ 3 ≤ (reading p [0x46]).pos.toNat ∧ (reading p [0x46]).pos.toNat ≤ 10
    ∧ (reading p [0x46]).stop = false ∧ isHex 0x46#8 = true := by decide
theorem witness_accBounded : (reading 10 [0x46]).AccBounded := fun _ => by decide
/-- Positions 3 and 10, a bad byte first and a digit after a bad byte. -/
theorem witness_ReadStopsAtNonHexByte : (∀ p ∈ ([3, 10] : List Pos), (reading p [0x47]).currentInput.rst = false
      ∧ (reading p [0x47]).busy = true ∧ (reading p [0x47]).stream = 0x47#8 :: []
      ∧ 3 ≤ (reading p [0x47]).pos.toNat ∧ (reading p [0x47]).pos.toNat ≤ 10 ∧ isHex 0x47#8 = false)
    ∧ ({ reading 10 [0x30] with stop := true } : State).stop = true := by decide
/-- Positions 11 and 13. -/
theorem witness_ReadDiscardsTailByteAndEnds : ∀ p ∈ ([11, 13] : List Pos),
    (reading p [0x03]).currentInput.rst = false ∧ (reading p [0x03]).busy = true
    ∧ (reading p [0x03]).stream = 0x03#8 :: [] ∧ 11 ≤ (reading p [0x03]).pos.toNat
    ∧ (reading p [0x03]).pos.toNat ≤ 13 := by decide
theorem witness_ReadAdvancesByOneByte :
    (∃ s, ReadProgress [0x02, 0x11] s ∧ s.currentInput.rst = false ∧ s.stream = 0x22#8 :: [0x31])
    ∧ (∃ s, ReadProgress [] s ∧ s.currentInput.rst = false ∧ s.stream = [])
    ∧ ∃ s, ReadProgress (frameAbcd.take 13) s ∧ s.currentInput.rst = false ∧ s.stream = 0x03#8 :: [] :=
  ⟨⟨_, progress_two, rfl, rfl⟩, ⟨_, progress_none [], rfl, rfl⟩, ⟨_, progress_last, rfl, rfl⟩⟩
theorem witness_ReadOfBufferedFrameTakesFifteenSteps : ∃ (s : State) (f rest : List Byte),
    s.busy = false ∧ s.stream = f ++ rest ∧ f.length = 14 ∧ (s.inputAt 0).calmCommand .read = true
    ∧ ∀ k, k < 15 → (s.inputAt k).calm = true :=
  ⟨idle (frameAbcd ++ [0x02]) [commandStep .read [0x41]], frameAbcd, [0x02], rfl, rfl, rfl, rfl, by decide⟩
theorem witness_ReadDecodesFirstFourteenBytes : ∃ s : State, ReadProgress [] s
    ∧ ∀ k, k < 16 → (s.inputAt k).calm = true := ⟨_, progress_none frameAbcd, by decide⟩
theorem witness_UnderrunHoldsUntilReset : ∃ s : State, s.busy = true ∧ s.stream = []
    ∧ ∀ k, k < 3 → (s.inputAt k).rst = false ∧ (s.inputAt k).arrivals = [] :=
  ⟨{ reading 5 [] with inputs := [commandStep .poll []] }, rfl, rfl, by decide⟩
theorem witness_ReadIgnoresBytesOutsideData : ∃ s : State, ReadProgress [] s ∧ frameAbcd.length = 14
    ∧ frameFlags.length = 14 ∧ dataRegion frameAbcd = dataRegion frameFlags
    ∧ ∀ k, k < 14 → (s.inputAt k).calm = true :=
  ⟨_, progress_none [], rfl, rfl, rfl, by decide⟩
theorem witness_OperationsForgetEarlierResults :
    (∃ s u : State, s ≠ u ∧ s.busy = false ∧ u.busy = false ∧ s.stream = u.stream
      ∧ s.inputs = u.inputs ∧ s.currentInput.rst = false ∧ s.presented = .read)
    ∧ ∃ s u t v : State, s ≠ u ∧ s.busy = false ∧ u.busy = false ∧ s.stream = u.stream
      ∧ s.inputs = u.inputs ∧ s.currentInput.rst = false ∧ s.presented = .poll
      ∧ step s = .next t ∧ step u = .next v :=
  ⟨⟨idle [] [commandStep .read []], { idle [] [commandStep .read []] with acc := 5#32 }, by decide, rfl,
      rfl, rfl, rfl, rfl, rfl⟩,
   ⟨idle [] [commandStep .poll []], { idle [] [commandStep .poll []] with avail := true }, _, _, by decide,
      rfl, rfl, rfl, rfl, rfl, rfl, rfl, rfl⟩⟩
theorem witness_ConformingFrameReadsAsItsTagCode : ∃ (s : State) (f rest : List Byte), s.busy = false
    ∧ s.stream = f ++ rest ∧ conformingFrame f = true ∧ tagDigits (dataRegion f) = true
    ∧ (s.inputAt 0).calmCommand .read = true ∧ (∀ k, k < 15 → (s.inputAt k).calm = true) ∧ 7 < 8 :=
  ⟨idle frameAbcd [commandStep .read []], frameAbcd, [], rfl, rfl, rfl, rfl, rfl, by decide, by decide⟩
/-- P2. -/
theorem witness_GetcodeReturnsDecodedFrame : ∃ (s : State) (g f rest : List Byte), s.busy = false
    ∧ s.stream = g ++ f ++ rest ∧ (∀ b ∈ g, b ≠ 0x02#8) ∧ f.length = 14 ∧ f.head? = some 0x02#8
    ∧ (∀ k, k ≤ g.length → (s.inputAt k).calmCommand .poll = true)
    ∧ (s.inputAt (g.length + 1)).calmCommand .read = true
    ∧ ∀ k, k < g.length + 16 → (s.inputAt k).calm = true :=
  ⟨idle (0x41 :: frameAbcd) [commandStep .poll [], commandStep .poll [], commandStep .read []],
    [0x41], frameAbcd, [], rfl, rfl, by decide, rfl, rfl, fun k hk => by
      have : k = 0 ∨ k = 1 := by simp at hk; omega
      rcases this with rfl | rfl <;> rfl, rfl, by decide⟩
/-- The ends of the three ranges. -/
theorem witness_HexDigitRanges : (0x30 ≤ (0x39#8).toNat ∧ (0x39#8).toNat ≤ 0x39)
    ∧ (0x41 ≤ (0x46#8).toNat ∧ (0x46#8).toNat ≤ 0x46) ∧ (0x61 ≤ (0x66#8).toNat ∧ (0x66#8).toNat ≤ 0x66) := by
  decide
theorem witness_EightDigitsDecodeToTheirNibbles :
    ([0x44, 0x45, 0x41, 0x44, 0x62, 0x65, 0x65, 0x66] : List Byte).all isHex = true := by decide
theorem witness_DecodedValueFitsAccumulator : (dataRegion frameAbcd).length ≤ 8 := by decide
theorem witness_MalformedDataDecodesToDigitPrefix :
    ([0x31, 0x32] : List Byte).all isHex = true ∧ isHex 0x47#8 = false := by decide
/-- One state for each guard of the register-by-register statements. -/
theorem witness_register_writers :
    (∃ s t : State, step s = .next t ∧ s.currentInput.rst = true)
    ∧ (∃ s t : State, step s = .next t ∧ s.currentInput.rst = false ∧ s.busy = false ∧ s.presented = .read)
    ∧ (∃ s t : State, step s = .next t ∧ s.currentInput.rst = false ∧ s.busy = false ∧ s.presented = .poll)
    ∧ (∃ s t : State, step s = .next t ∧ s.currentInput.rst = false ∧ s.busy = false
        ∧ s.presented ≠ .read ∧ s.presented ≠ .poll)
    ∧ (∃ s t : State, step s = .next t ∧ s.currentInput.rst = false ∧ s.busy = true ∧ s.stream = [])
    ∧ ∃ (s t : State) (b : Byte) (rest : List Byte), step s = .next t ∧ s.currentInput.rst = false
        ∧ s.busy = true ∧ s.stream = b :: rest :=
  ⟨⟨idle [] [resetStep []], _, rfl, rfl⟩, ⟨idle [] [commandStep .read []], _, rfl, rfl, rfl, rfl⟩,
   ⟨idle [] [commandStep .poll []], _, rfl, rfl, rfl, rfl⟩,
   ⟨idle [] [commandStep .flush []], _, rfl, rfl, rfl, by decide, by decide⟩,
   ⟨reading 5 [], _, rfl, rfl, rfl, rfl⟩, ⟨reading 13 [0x03], _, _, _, rfl, rfl, rfl, rfl⟩⟩
theorem reading_inv (p : Pos) (h : p.toNat ≤ 13) (bs : List Byte) : (reading p bs).Inv :=
  ⟨h, fun hb => (by cases hb), fun _ => rfl, fun _ _ => ⟨rfl, rfl⟩⟩
theorem witness_StepKeepsRegisterInvariant : ∃ s t : State, s.Inv ∧ s.AccBounded ∧ step s = .next t :=
  ⟨reading 3 [0x46], _, reading_inv _ (by decide) _, fun _ => by decide, rfl⟩
theorem witness_FlushChangesNothing : ∃ s : State, s.currentInput.rst = false ∧ s.busy = false
    ∧ s.presented = .flush := ⟨idle [0x41] [commandStep .flush []], rfl, rfl, rfl⟩
theorem witness_NopChangesNothing : (∃ s : State, s.currentInput.rst = false ∧ s.busy = false
      ∧ s.presented = .nop)
    ∧ ∃ s : State, s.currentInput.rst = false ∧ s.busy = false ∧ s.presented = .nopIdle 0 :=
  ⟨⟨idle [] [commandStep .nop []], rfl, rfl, rfl⟩, ⟨idle [] [], rfl, rfl, rfl⟩⟩

end Sys2Proof.Tests
end

section
/-! The ranges of R7 that the open parameters keep, and the port `s_count` as the count (R32, R52, R120). -/

namespace Sys2Proof

/-- CW is at least 4, so `s_count` can carry sixteen values at least. -/
theorem Config.four_le_cw : 4 ≤ Config.cw := Nat.le_add_right 4 Config.cwAboveFour

/-- The length of a whole frame is itself a value of `s_count`; the range R7 leaves for FIFO_DEPTH is not
empty. -/
theorem Config.packetLen_lt_two_pow_cw : Config.packetLen < 2 ^ Config.cw :=
  calc Config.packetLen < 2 ^ 4 := by decide
    _ ≤ 2 ^ Config.cw := Nat.pow_le_pow_right (by decide) Config.four_le_cw

theorem Config.packetLen_le_fifoDepth : Config.packetLen ≤ Config.fifoDepth :=
  Nat.le_add_right Config.packetLen _

theorem Config.fifoDepth_lt_two_pow_cw : Config.fifoDepth < 2 ^ Config.cw := by
  have hframe := Config.packetLen_lt_two_pow_cw
  have hfree : Config.depthChoice % (2 ^ Config.cw - Config.packetLen) < 2 ^ Config.cw - Config.packetLen :=
    Nat.mod_lt _ (Nat.sub_pos_of_lt hframe)
  unfold Config.fifoDepth
  omega

theorem Params.wf_iff (p : Params) :
    p.wf = true ↔ 4 ≤ p.cw ∧ Config.packetLen ≤ p.fifoDepth ∧ p.fifoDepth < 2 ^ p.cw := by
  simp [Params.wf, Params.cwWide, Params.depthHoldsFrame, Params.countFits, and_assoc]

theorem Config.params_wf : Config.params.wf = true :=
  (Params.wf_iff _).mpr
    ⟨Config.four_le_cw, Config.packetLen_le_fifoDepth, Config.fifoDepth_lt_two_pow_cw⟩

namespace Machine

variable {s : State}

/-- The port does not wrap while the transport holds at most FIFO_DEPTH bytes. -/
theorem State.portCount_toNat (h : s.count ≤ Config.fifoDepth) : s.portCount.toNat = s.count := by
  have hfits : s.count < 2 ^ Config.cw := Nat.lt_of_le_of_lt h Config.fifoDepth_lt_two_pow_cw
  rw [State.portCount, BitVec.toNat_ofNat, Nat.mod_eq_of_lt hfits]

/-- The unsigned comparison on CW bits is the comparison of the counts, for every number that fits in CW
bits. -/
theorem State.ofNat_le_portCount_iff {n : Nat} (hn : n < 2 ^ Config.cw) (h : s.count ≤ Config.fifoDepth) :
    BitVec.ofNat Config.cw n ≤ s.portCount ↔ n ≤ s.count := by
  rw [BitVec.le_def, State.portCount_toNat h, BitVec.toNat_ofNat, Nat.mod_eq_of_lt hn]

/-- Settles O15: FIFO_DEPTH, and with it fourteen, lies below 2^CW, so neither side of the comparison wraps. -/
theorem countPortIsExactWithinDepth : Obligations.CountPortIsExactWithinDepth :=
  ⟨Config.params_wf, Config.four_le_cw, fun _ h =>
    ⟨State.portCount_toNat h, State.ofNat_le_portCount_iff Config.packetLen_lt_two_pow_cw h⟩⟩

end Machine

end Sys2Proof
end

section
/-! What POLL leaves and which branch it takes, in terms of the stream alone (R110 to R117). -/

namespace Sys2Proof.Machine

/-- The state a POLL leaves (R110). -/
def State.afterPoll (s : State) : State :=
  (if pollPops s.pollBranch then s.pop else s).setAvail (pollResult s.pollBranch)

variable (s : State)

theorem exec_poll : exec .poll s = .next s.afterPoll := rfl

@[simp] theorem State.afterPoll_acc : s.afterPoll.acc = s.acc := by
  unfold State.afterPoll; split <;> rfl
@[simp] theorem State.afterPoll_pos : s.afterPoll.pos = s.pos := by
  unfold State.afterPoll; split <;> rfl
@[simp] theorem State.afterPoll_busy : s.afterPoll.busy = s.busy := by
  unfold State.afterPoll; split <;> rfl
@[simp] theorem State.afterPoll_stop : s.afterPoll.stop = s.stop := by
  unfold State.afterPoll; split <;> rfl
@[simp] theorem State.afterPoll_inputs : s.afterPoll.inputs = s.inputs := by
  unfold State.afterPoll; split <;> rfl
theorem State.afterPoll_avail : s.afterPoll.avail = pollResult s.pollBranch := rfl
theorem State.afterPoll_stream :
    s.afterPoll.stream = if pollPops s.pollBranch then s.stream.tail else s.stream := by
  unfold State.afterPoll; split <;> rfl

theorem pollResult_iff (p : PollBranch) : pollResult p = true ↔ p = .complete := by
  cases p <;> decide

theorem pollPops_iff (p : PollBranch) : pollPops p = true ↔ p = .stray := by
  cases p <;> decide

variable {s} {b : Byte} {rest : List Byte}

theorem State.pollBranch_of_nil (h : s.stream = []) : s.pollBranch = .empty := by
  rw [State.pollBranch, s.count_eq_zero_iff.mpr h, pollBranch_empty]

theorem State.pollBranch_of_stray (h : s.stream = b :: rest) (hb : b ≠ 0x02#8) :
    s.pollBranch = .stray := by
  have hcount : s.count ≠ 0 := by simp [s.count_eq_zero_iff, h]
  rw [State.pollBranch, s.peek_of_cons h, pollBranch_stray hcount hb]

theorem State.pollBranch_of_framed (h : s.stream = 0x02#8 :: rest) :
    s.pollBranch = if 14 ≤ s.stream.length then .complete else .incomplete := by
  have hcount : s.count ≠ 0 := by simp [s.count_eq_zero_iff, h]
  rw [State.pollBranch, s.peek_of_cons h]
  split
  · next hlen => exact pollBranch_complete hlen
  · next hlen => exact pollBranch_incomplete hcount (Nat.lt_of_not_le hlen)

/-- The branch POLL takes is a function of the stream: the value on `s_head` of an empty stream has no part
in it (R113). -/
theorem State.pollBranch_congr {u : State} (h : s.stream = u.stream) : s.pollBranch = u.pollBranch := by
  cases hs : s.stream with
  | nil => rw [State.pollBranch_of_nil hs, State.pollBranch_of_nil (h ▸ hs)]
  | cons b rest =>
    have hu : u.stream = b :: rest := h ▸ hs
    rw [State.pollBranch, State.pollBranch, s.peek_of_cons hs, u.peek_of_cons hu, State.count,
      State.count, h]

/-- POLL's result, as R111 states it. -/
theorem State.afterPoll_avail_iff :
    s.afterPoll.avail = true ↔ s.stream.head? = some 0x02#8 ∧ 14 ≤ s.stream.length := by
  rw [State.afterPoll_avail, pollResult_iff]
  cases hs : s.stream with
  | nil => simp [State.pollBranch_of_nil hs]
  | cons b rest =>
    by_cases hb : b = 0x02#8
    · subst hb
      rw [State.pollBranch_of_framed hs, hs]
      simp
    · simp [State.pollBranch_of_stray hs hb, hb]

/-- The head byte goes exactly when POLL finds it stray (R112). -/
theorem State.afterPoll_stream_ne_iff :
    s.afterPoll.stream ≠ s.stream ↔ s.pollBranch = .stray := by
  rw [State.afterPoll_stream, ← pollPops_iff]
  cases hs : s.stream with
  | nil => simp [State.pollBranch_of_nil hs, pollPops]
  | cons b rest => cases pollPops s.pollBranch <;> simp

end Sys2Proof.Machine
end

section
/-! The state a step leaves, one lemma for each of the events of R178: `step_cases` with the guards given. -/

namespace Sys2Proof.Machine

variable {s t : State}

theorem State.presented_congr {u : State} (h : s.inputs = u.inputs) : s.presented = u.presented := by
  rw [State.presented, State.presented, State.currentInput, State.currentInput, h]

theorem eq_of_step_eq {u : State} (h : step s = .next t) (h' : step s = .next u) : t = u :=
  Host.Outcome.next.inj (h.symm.trans h')

theorem reset_step_eq (h : step s = .next t) (hr : s.currentInput.rst = true) :
    t = s.resetRegisters.endCycle :=
  eq_of_step_eq h (step_reset hr)

theorem hold_step_eq (h : step s = .next t) (hr : s.currentInput.rst = false) (hb : s.busy = true)
    (he : s.stream = []) : t = s.endCycle :=
  by
  rw [eq_of_step_eq h (step_busy hr hb), s.readContinue_hold he]

theorem consume_step_eq (h : step s = .next t) (hr : s.currentInput.rst = false) (hb : s.busy = true)
    (he : s.stream ≠ []) : t = s.consume.endCycle :=
  by
  rw [eq_of_step_eq h (step_busy hr hb), s.readContinue_consume he]

theorem poll_step_eq (h : step s = .next t) (hr : s.currentInput.rst = false) (hb : s.busy = false)
    (hp : s.presented = .poll) : t = s.afterPoll.endCycle :=
  eq_of_step_eq h (step_idle hr hb (hp ▸ exec_poll s))

theorem exec_read : exec .read s = .next s.acceptRead := rfl

theorem step_accept (hr : s.currentInput.rst = false) (hb : s.busy = false)
    (hp : s.presented = .read) : step s = .next s.acceptRead.endCycle :=
  step_idle hr hb (hp ▸ exec_read)

/-- NOP in both forms and FLUSH are no-ops (R160, R162). -/
theorem exec_of_ne_poll_read {i : Instr} (hp : i ≠ .poll) (hr : i ≠ .read) : exec i s = .next s := by
  cases i with
  | nopIdle _ => rfl
  | nop => rfl
  | poll => exact absurd rfl hp
  | read => exact absurd rfl hr
  | flush => rfl

/-- At a NOP or a FLUSH only the arrivals and the schedule move. -/
theorem quiet_step_eq (h : step s = .next t) (hr : s.currentInput.rst = false) (hb : s.busy = false)
    (hread : s.presented ≠ .read) (hpoll : s.presented ≠ .poll) : t = s.endCycle :=
  eq_of_step_eq h (step_idle hr hb (exec_of_ne_poll_read hpoll hread))

/-- What an idle block keeps through a POLL and through the end of a step, only READ acceptance writes. -/
theorem idle_step_register {α : Type} (reg : State → α) (hend : ∀ u : State, reg u.endCycle = reg u)
    (hafter : ∀ u : State, reg u.afterPoll = reg u) (h : step s = .next t)
    (hr : s.currentInput.rst = false) (hb : s.busy = false) :
    reg t = if s.presented = .read then reg s.acceptRead else reg s := by
  by_cases hread : s.presented = .read
  · rw [eq_of_step_eq h (step_accept hr hb hread), hend, if_pos hread]
  · by_cases hpoll : s.presented = .poll
    · rw [poll_step_eq h hr hb hpoll, hend, hafter, if_neg hread]
    · rw [quiet_step_eq h hr hb hread hpoll, hend, if_neg hread]

end Sys2Proof.Machine
end

section
/-! The invariants R39 and R142: which operations of a step establish them and which keep them. -/

namespace Sys2Proof.Machine

variable {s : State}

theorem frameField_eq_data_iff (p : Pos) :
    frameField p = .data ↔ 3 ≤ p.toNat ∧ p.toNat ≤ 10 := by
  rcases Nat.lt_or_ge p.toNat 3 with hlow | hlow
  · rw [frameField_hdr (Nat.le_of_lt_succ hlow)]; exact iff_of_false (by decide) (by omega)
  · rcases Nat.lt_or_ge 10 p.toNat with hhigh | hhigh
    · rw [frameField_tail hhigh]; exact iff_of_false (by decide) (by omega)
    · simp [frameField_data hlow hhigh, hlow, hhigh]

/-- Below position 13 the advance does not wrap on four bits. -/
theorem toNat_succ_pos {p : Pos} (h : p.toNat ≤ 13) : (p + 1#4).toNat = p.toNat + 1 := by
  bv_omega

/-- R39 speaks of the registers alone, which the end of a step does not touch. -/
theorem State.Inv.endCycle (h : s.Inv) : s.endCycle.Inv :=
  ⟨h.pos_legal, h.idle_pos, h.busy_avail, h.before_data⟩

theorem State.inv_of_idle (hb : s.busy = false) (hp : s.pos = 0#4) : s.Inv where
  pos_legal := by simp [hp]
  idle_pos _ := hp
  busy_avail h := by simp [hb] at h
  before_data h := by simp [hb] at h

theorem State.accBounded_of_idle (hb : s.busy = false) : s.AccBounded :=
  fun h => by simp [hb] at h

theorem State.acceptRead_inv (s : State) : s.acceptRead.Inv where
  pos_legal := by simp
  idle_pos h := by simp at h
  busy_avail _ := rfl
  before_data _ _ := ⟨rfl, rfl⟩

/-- A POLL of an idle block: R39 (c) and (d) speak of a busy block only. -/
theorem State.Inv.afterPoll (h : s.Inv) (hb : s.busy = false) : s.afterPoll.Inv :=
  State.inv_of_idle (by simp [hb]) (by simp [h.idle_pos hb])

/-- A header byte writes neither ACC nor STOP (R134). -/
theorem State.consume_acc_stop_of_header (h : s.pos.toNat ≤ 2) :
    s.consume.acc = s.acc ∧ s.consume.stop = s.stop := by
  simp [State.consume_acc, State.consume_stop, frameField_hdr h]

/-- Position 13 ends the READ in an idle block at position 0; before it POS grows by one, and it is at most 3
afterwards only if the byte was a header byte. -/
theorem State.Inv.consume (h : s.Inv) (hb : s.busy = true) : s.consume.Inv := by
  by_cases hlast : s.pos = 13#4
  · exact State.inv_of_idle (by simp [State.consume_busy, hlast]) (by simp [State.consume_pos, hlast])
  · have hlegal : s.pos.toNat ≤ 13 := h.pos_legal
    have hne : s.pos.toNat ≠ 13 := fun he => hlast (BitVec.eq_of_toNat_eq he)
    have hpos : s.consume.pos.toNat = s.pos.toNat + 1 := by
      rw [State.consume_pos, if_neg hlast, toNat_succ_pos hlegal]
    have hbusy : s.consume.busy = true := by simp [State.consume_busy, hlast, hb]
    exact {
      pos_legal := by omega
      idle_pos := fun hidle => by simp [hbusy] at hidle
      busy_avail := fun _ => by simp [h.busy_avail hb]
      before_data := fun _ hearly => by
        obtain ⟨hacc, hstop⟩ := State.consume_acc_stop_of_header (s := s) (by omega)
        rw [hacc, hstop]
        exact h.before_data hb (by omega) }

/-- Settles O48, by the events of a step in the order of R178: only a consume step moves POS in a busy block. -/
theorem stepKeepsRegisterInvariant : Obligations.StepKeepsRegisterInvariant := by
  intro s t hinv h
  obtain ⟨_, rfl⟩ | ⟨_, _, _, rfl⟩ | ⟨_, hb, _, rfl⟩ | ⟨_, hb, _, rfl⟩ | ⟨_, _, _, rfl⟩ | ⟨_, _, _, _, rfl⟩ :=
    step_cases h
  · exact (State.inv_of_idle rfl rfl : s.resetRegisters.Inv).endCycle
  case inr.inl => exact hinv.endCycle
  case inr.inr.inl => exact (hinv.consume hb).endCycle
  case inr.inr.inr.inl => exact (hinv.afterPoll hb).endCycle
  case inr.inr.inr.inr.inl => exact s.acceptRead_inv.endCycle
  case inr.inr.inr.inr.inr => exact hinv.endCycle

/-- Settles O3: an idle block at position 0 meets both. -/
theorem resetEstablishesInvariants : Obligations.ResetEstablishesInvariants := by
  refine ⟨⟨State.inv_of_idle rfl rfl, State.accBounded_of_idle rfl⟩, fun s t hr h => ?_⟩
  rw [reset_step_eq h hr]
  exact ⟨State.inv_of_idle rfl rfl, State.accBounded_of_idle rfl⟩

end Sys2Proof.Machine
end

section
/-! The value on `s_head` of an empty stream (U2): it lies in the coming step's input alone, and no operation
reads it. -/

namespace Sys2Proof.Machine

variable (s : State) (h : Byte)

theorem State.withEmptyHead_pos : (s.withEmptyHead h).pos = s.pos := rfl
theorem State.withEmptyHead_stop : (s.withEmptyHead h).stop = s.stop := rfl
theorem State.withEmptyHead_pollBranch : (s.withEmptyHead h).pollBranch = s.pollBranch :=
  State.pollBranch_congr rfl

/-- The schedule's move to the next input discards the value. -/
theorem State.endCycle_withEmptyHead : (s.withEmptyHead h).endCycle = s.endCycle := rfl

theorem State.dataByte_withEmptyHead (b : Byte) :
    (s.withEmptyHead h).dataByte b = (s.dataByte b).withEmptyHead h := by
  rw [State.dataByte, State.dataByte, State.withEmptyHead_stop]
  split
  · rfl
  · split <;> rfl

theorem State.fieldAction_withEmptyHead (b : Byte) :
    (s.withEmptyHead h).fieldAction b = (s.fieldAction b).withEmptyHead h := by
  rw [State.fieldAction, State.fieldAction, State.withEmptyHead_pos]
  split
  · rfl
  · exact s.dataByte_withEmptyHead h b
  · rfl

theorem State.advancePos_withEmptyHead :
    (s.withEmptyHead h).advancePos = s.advancePos.withEmptyHead h := by
  rw [State.advancePos, State.advancePos, State.withEmptyHead_pos]
  split <;> rfl

theorem State.pop_withEmptyHead : (s.withEmptyHead h).pop = s.pop.withEmptyHead h := rfl

/-- A consume step sees a byte, so the head it peeks at is the stream's own. -/
theorem State.consume_withEmptyHead (hne : s.stream ≠ []) :
    (s.withEmptyHead h).consume = s.consume.withEmptyHead h := by
  obtain ⟨b, rest, hs⟩ := List.exists_cons_of_ne_nil hne
  have hpeek : (s.withEmptyHead h).peek = s.peek := by
    rw [s.peek_of_cons hs, (s.withEmptyHead h).peek_of_cons hs]
  rw [State.consume, hpeek, State.pop_withEmptyHead, State.fieldAction_withEmptyHead,
    State.advancePos_withEmptyHead, State.consume]

theorem State.readContinue_withEmptyHead :
    (s.withEmptyHead h).readContinue = s.readContinue.withEmptyHead h := by
  by_cases hs : s.stream = []
  · rw [s.readContinue_hold hs, (s.withEmptyHead h).readContinue_hold hs]
  · rw [s.readContinue_consume hs, (s.withEmptyHead h).readContinue_consume hs,
      s.consume_withEmptyHead h hs]

theorem State.afterPoll_withEmptyHead :
    (s.withEmptyHead h).afterPoll = s.afterPoll.withEmptyHead h := by
  rw [State.afterPoll, State.afterPoll, State.withEmptyHead_pollBranch]
  split <;> rfl

/-- Each command commutes with the change of the value. -/
theorem exec_withEmptyHead (i : Instr) :
    ∃ t : State, exec i s = .next t ∧ exec i (s.withEmptyHead h) = .next (t.withEmptyHead h) := by
  cases i with
  | nopIdle _ => exact ⟨s, rfl, rfl⟩
  | nop => exact ⟨s, rfl, rfl⟩
  | poll => exact ⟨s.afterPoll, rfl, s.afterPoll_withEmptyHead h ▸ exec_poll _⟩
  | read => exact ⟨s.acceptRead, rfl, rfl⟩
  | flush => exact ⟨s, rfl, rfl⟩

/-- The block's part of the step commutes with the change of the value, and the end of the step discards it. -/
theorem step_withEmptyHead : step (s.withEmptyHead h) = step s := by
  cases hr : s.currentInput.rst with
  | true => rw [step_reset hr, step_reset (s := s.withEmptyHead h) hr]; rfl
  | false =>
    cases hb : s.busy with
    | true =>
      rw [step_busy hr hb, step_busy (s := s.withEmptyHead h) hr hb, State.readContinue_withEmptyHead,
        State.endCycle_withEmptyHead]
    | false =>
      obtain ⟨t, hs, hw⟩ := exec_withEmptyHead s h s.presented
      rw [step_idle hr hb hs, step_idle (s := s.withEmptyHead h) hr hb hw, State.endCycle_withEmptyHead]

theorem State.portPop_withEmptyHead : (s.withEmptyHead h).portPop = s.portPop := by
  rw [State.portPop, State.withEmptyHead_pollBranch, State.portPop]; rfl

/-- Settles O10: the consume step and POLL's branch, the only readers of the head, see the stream's own byte. -/
theorem emptyStreamHeadIsNeverUsed : Obligations.EmptyStreamHeadIsNeverUsed :=
  fun s h => ⟨step_withEmptyHead s h, s.portPop_withEmptyHead h⟩

end Sys2Proof.Machine
end

section
/-! POLL against the conceptual states of R26, and what the operations forget (R27, R35). -/

namespace Sys2Proof.Machine

variable {s u : State} {b : Byte} {rest : List Byte}

theorem State.phase_of_nil (hb : s.busy = false) (h : s.stream = []) : s.phase = .scanning := by
  simp [State.phase, hb, h]

theorem State.phase_of_stray (hb : s.busy = false) (h : s.stream = b :: rest) (hne : b ≠ 0x02#8) :
    s.phase = .scanning := by
  simp [State.phase, hb, h, Config.startFlag, hne]

theorem State.phase_of_framed (hb : s.busy = false) (h : s.stream = 0x02#8 :: rest) :
    s.phase = if 14 ≤ s.stream.length then .framedComplete else .framedIncomplete := by
  have hphase : s.phase = if s.count < 14 then .framedIncomplete else .framedComplete := by
    simp [State.phase, hb, h, Config.startFlag]
  rw [hphase, State.count]
  simp only [← Nat.not_le, ite_not]

/-- The table of R26 and the branches of R117 agree on an idle block: Framed-Complete is the branch that
reports true, and Scanning with a byte at hand is the branch that pops. -/
theorem State.phase_iff_pollBranch (hb : s.busy = false) :
    (s.phase = .framedComplete ↔ s.pollBranch = .complete)
    ∧ (s.phase = .scanning ∧ s.stream ≠ [] ↔ s.pollBranch = .stray) := by
  cases hs : s.stream with
  | nil => simp [State.phase_of_nil hb hs, State.pollBranch_of_nil hs]
  | cons b rest =>
    by_cases hflag : b = 0x02#8
    · subst hflag
      rw [State.phase_of_framed hb hs, State.pollBranch_of_framed hs]
      split <;> simp
    · simp [State.phase_of_stray hb hs hflag, State.pollBranch_of_stray hs hflag]

/-- Settles O20: POLL reports true in the branch `complete` and pops in the branch `stray`. -/
theorem pollReportsFramedCompletePhase : Obligations.PollReportsFramedCompletePhase := by
  intro s t hb h
  obtain rfl : s.afterPoll = t := Host.Outcome.next.inj h
  obtain ⟨hcomplete, hstray⟩ := State.phase_iff_pollBranch hb
  exact ⟨by rw [hcomplete, State.afterPoll_avail, pollResult_iff],
    by rw [hstray, State.afterPoll_stream_ne_iff]⟩

/-- READ acceptance overwrites every register. -/
theorem State.acceptRead_congr (hs : s.stream = u.stream) (hi : s.inputs = u.inputs) :
    s.acceptRead = u.acceptRead := by
  simp only [State.acceptRead, hs, hi]

theorem State.endCycle_stream_congr (hs : s.stream = u.stream) (hi : s.inputs = u.inputs) :
    s.endCycle.stream = u.endCycle.stream := by
  simp only [State.endCycle_stream, State.currentInput, hs, hi]

/-- Settles O36: READ acceptance overwrites every register, and POLL's branch is a function of the stream. -/
theorem operationsForgetEarlierResults : Obligations.OperationsForgetEarlierResults := by
  intro s u hsb hub hstream hinputs hr
  have hru : u.currentInput.rst = false := by rw [← hr, State.currentInput, State.currentInput, hinputs]
  have hpresented : s.presented = u.presented := State.presented_congr hinputs
  constructor
  · intro hread
    rw [step_accept hr hsb hread, step_accept hru hub (hpresented ▸ hread),
      State.acceptRead_congr hstream hinputs]
  · intro hpoll t v ht hv
    have hbranch : s.pollBranch = u.pollBranch := State.pollBranch_congr hstream
    rw [poll_step_eq ht hr hsb hpoll, poll_step_eq hv hru hub (hpresented ▸ hpoll)]
    constructor
    · simp only [State.endCycle_avail, State.afterPoll_avail, hbranch]
    · apply State.endCycle_stream_congr
      · simp only [State.afterPoll_stream, hbranch, hstream]
      · simp only [State.afterPoll_inputs, hinputs]

/-- Settles O2: a reset step leaves BUSY at 0, and an idle block runs the command at its port. -/
theorem resetLeavesBlockIdle : Obligations.ResetLeavesBlockIdle := by
  refine ⟨⟨rfl, rfl, rfl, rfl, rfl⟩, fun s t hr h => ?_⟩
  obtain rfl := reset_step_eq h hr
  exact ⟨rfl, rfl, rfl, fun u hr' he => step_idle hr' rfl he⟩

end Sys2Proof.Machine
end

section
/-! Who writes which register (R21 to R25), from the state each event of R178 leaves. -/

namespace Sys2Proof.Machine

/-- Settles O43: READ acceptance is the only idle step, and a data byte the only byte, that writes ACC. -/
theorem accumulatorIsWrittenOnlyByReadAndReset :
    Obligations.AccumulatorIsWrittenOnlyByReadAndReset := by
  intro s t h
  refine ⟨fun hr => ?_, fun hr hb => ?_, fun hr hb he => ?_, fun b rest hr hb hs => ?_⟩
  · rw [reset_step_eq h hr]; rfl
  · exact idle_step_register State.acc State.endCycle_acc State.afterPoll_acc h hr hb
  · rw [hold_step_eq h hr hb he]; rfl
  · rw [consume_step_eq h hr hb (by simp [hs]), State.endCycle_acc, State.consume_acc,
      s.peek_of_cons hs]
    simp only [frameField_eq_data_iff, and_assoc]

/-- Settles O44: an idle step writes POS at READ acceptance only, a busy one exactly when it sees a byte. -/
theorem positionAdvancesByConsumedBytesOnly : Obligations.PositionAdvancesByConsumedBytesOnly := by
  intro s t h
  refine ⟨fun hr => ?_, fun hr hb => ?_, fun hr hb => ?_⟩
  · rw [reset_step_eq h hr]; rfl
  · exact idle_step_register State.pos State.endCycle_pos State.afterPoll_pos h hr hb
  · by_cases he : s.stream = []
    · rw [hold_step_eq h hr hb he, if_pos he]; rfl
    · rw [consume_step_eq h hr hb he, if_neg he, State.endCycle_pos, State.consume_pos]

/-- BUSY after a step of a busy block without reset (R23, R140). -/
theorem busy_step_busy {s t : State} (h : step s = .next t) (hr : s.currentInput.rst = false)
    (hb : s.busy = true) : t.busy = false ↔ s.pos = 13#4 ∧ s.stream ≠ [] := by
  by_cases he : s.stream = []
  · rw [hold_step_eq h hr hb he]; simp [hb, he]
  · rw [consume_step_eq h hr hb he, State.endCycle_busy, State.consume_busy]; simp [hb, he]

/-- Settles O45: reset and READ acceptance on an idle block, reset and the last byte on a busy one. -/
theorem busyRisesAtReadAndFallsAtLastByte : Obligations.BusyRisesAtReadAndFallsAtLastByte := by
  intro s t h
  cases hr : s.currentInput.rst with
  | true => rw [reset_step_eq h hr]; simp
  | false =>
    refine ⟨fun hb => ?_, fun hb => ?_⟩
    · rw [idle_step_register State.busy State.endCycle_busy State.afterPoll_busy h hr hb]
      simp [hb]
    · simp [busy_step_busy h hr hb]

/-- Settles O46: READ acceptance is the only idle step, and a non-hex data byte the only byte, that writes
STOP. -/
theorem stopIsSetByNonHexDataOnly : Obligations.StopIsSetByNonHexDataOnly := by
  intro s t h
  refine ⟨fun hr => ?_, fun hr hb => ?_, fun hr hb he => ?_, fun b rest hr hb hs => ?_⟩
  · rw [reset_step_eq h hr]; rfl
  · exact idle_step_register State.stop State.endCycle_stop State.afterPoll_stop h hr hb
  · rw [hold_step_eq h hr hb he]; rfl
  · rw [consume_step_eq h hr hb (by simp [hs]), State.endCycle_stop, State.consume_stop,
      s.peek_of_cons hs]
    simp only [frameField_eq_data_iff, ← and_assoc]
    split <;> simp_all

/-- Settles O47: a busy block keeps AVAIL, and of the commands only READ and POLL write it. -/
theorem availHoldsLatestPollResult : Obligations.AvailHoldsLatestPollResult := by
  intro s t h
  refine ⟨fun hr => ?_, fun hr hb => ?_, fun hr hb hread => ?_, fun hr hb hpoll => ?_,
    fun hr hb hread hpoll => ?_⟩
  · rw [reset_step_eq h hr]; rfl
  · rw [eq_of_step_eq h (step_busy hr hb), State.endCycle_avail, State.readContinue_avail]
  · rw [eq_of_step_eq h (step_accept hr hb hread)]; rfl
  · rw [poll_step_eq h hr hb hpoll, State.endCycle_avail, State.afterPoll_avail_iff]
  · rw [quiet_step_eq h hr hb hread hpoll]; rfl

end Sys2Proof.Machine
end

section
/-! What a step does to the stream: `s_pop` takes the head byte, the arrivals join the tail (R54, R61, R62). -/

namespace Sys2Proof.Machine

variable {s t : State}

/-- A POLL pops exactly where it sees a byte that is no start flag (R112, R117). -/
theorem State.pollBranch_eq_stray_iff :
    s.pollBranch = .stray ↔ s.stream ≠ [] ∧ s.stream.head? ≠ some 0x02#8 := by
  cases hs : s.stream with
  | nil => simp [State.pollBranch_of_nil hs]
  | cons b rest =>
    by_cases hb : b = 0x02#8
    · subst hb
      rw [State.pollBranch_of_framed hs]
      split <;> simp
    · simp [State.pollBranch_of_stray hs hb, hb]

theorem State.currentInput_congr {u : State} (h : s.inputs = u.inputs) :
    s.currentInput = u.currentInput := by
  rw [State.currentInput, State.currentInput, h]

/-! `s_pop`, one lemma for each of the events of R178. -/

theorem State.portPop_reset (hr : s.currentInput.rst = true) : s.portPop = false := by
  rw [State.portPop, if_pos hr]

theorem State.portPop_busy (hr : s.currentInput.rst = false) (hb : s.busy = true) :
    s.portPop = decide (s.stream ≠ []) := by
  simp [State.portPop, hr, hb, s.count_eq_zero_iff]

theorem State.portPop_poll (hr : s.currentInput.rst = false) (hb : s.busy = false)
    (hp : s.presented = .poll) : s.portPop = pollPops s.pollBranch := by
  simp [State.portPop, hr, hb, hp]

theorem State.portPop_of_ne_poll (hr : s.currentInput.rst = false) (hb : s.busy = false)
    (hp : s.presented ≠ .poll) : s.portPop = false := by
  cases hi : s.presented with
  | poll => exact absurd hi hp
  | nopIdle _ | nop | read | flush => simp [State.portPop, hr, hb, hi]

/-- Settles O12, by the events of R178: a busy block pops when there is a byte, a POLL in the branch `stray`. -/
theorem popOnlyFromNonEmptyStream : Obligations.PopOnlyFromNonEmptyStream := by
  intro s
  cases hr : s.currentInput.rst with
  | true => simp [State.portPop_reset hr]
  | false =>
    cases hb : s.busy with
    | true => simp [State.portPop_busy hr hb]
    | false =>
      by_cases hp : s.presented = .poll
      · simp [State.portPop_poll hr hb hp, pollPops_iff, State.pollBranch_eq_stray_iff, hp]
      · simp [State.portPop_of_ne_poll hr hb hp, hp]

theorem step_stream (h : step s = .next t) :
    t.stream = arriveAll (if s.portPop then s.stream.tail else s.stream) s.currentInput.arrivals := by
  cases hr : s.currentInput.rst with
  | true => rw [reset_step_eq h hr, State.portPop_reset hr]; rfl
  | false =>
    cases hb : s.busy with
    | true =>
      by_cases he : s.stream = []
      · rw [hold_step_eq h hr hb he, State.portPop_busy hr hb]; simp [he]
      · rw [consume_step_eq h hr hb he, State.portPop_busy hr hb]
        simp [he, State.currentInput_congr s.consume_inputs]
    | false =>
      by_cases hpoll : s.presented = .poll
      · rw [poll_step_eq h hr hb hpoll, State.portPop_poll hr hb hpoll, State.endCycle_stream,
          State.afterPoll_stream, State.currentInput_congr s.afterPoll_inputs]
      · rw [State.portPop_of_ne_poll hr hb hpoll]
        by_cases hread : s.presented = .read
        · rw [eq_of_step_eq h (step_accept hr hb hread)]; rfl
        · rw [quiet_step_eq h hr hb hread hpoll]; rfl

/-- Settles O13: `step_stream`, and without overflow every arrival is a push. -/
theorem streamIsPoppedThenExtended : Obligations.StreamIsPoppedThenExtended :=
  fun _ _ h => ⟨step_stream h, fun hpushes => by rw [step_stream h, arriveAll_of_pushes _ _ hpushes]⟩

end Sys2Proof.Machine
end

section
/-! A push before a step against the same push after it (R62): on a non-empty stream every event of a step
commutes with the push, but for the count that POLL compares with fourteen. -/

namespace Sys2Proof.Machine

/-- `Push(b)` (R15) at a state. -/
def State.push (s : State) (b : Byte) : State := { s with stream := s.stream ++ [b] }

variable (s : State) (b : Byte)

@[simp] theorem State.push_acc : (s.push b).acc = s.acc := rfl
@[simp] theorem State.push_pos : (s.push b).pos = s.pos := rfl
@[simp] theorem State.push_busy : (s.push b).busy = s.busy := rfl
@[simp] theorem State.push_stop : (s.push b).stop = s.stop := rfl
@[simp] theorem State.push_avail : (s.push b).avail = s.avail := rfl
@[simp] theorem State.push_stream : (s.push b).stream = s.stream ++ [b] := rfl
@[simp] theorem State.push_inputs : (s.push b).inputs = s.inputs := rfl

variable {s} {t : State}

/-- With no arrival of the step's own, the push stays at the tail. -/
theorem State.endCycle_push (harr : s.currentInput.arrivals = []) :
    (s.push b).endCycle = s.endCycle.push b := by
  have harr' : (s.push b).currentInput.arrivals = [] := harr
  rw [State.endCycle, State.endCycle, harr, harr']; rfl

/-- A push behind a head byte does not reach the head. -/
theorem State.head?_push (hne : s.stream ≠ []) : (s.push b).stream.head? = s.stream.head? := by
  obtain ⟨c, rest, hs⟩ := List.exists_cons_of_ne_nil hne
  rw [State.push_stream, hs]; rfl

theorem State.peek_push (hne : s.stream ≠ []) : (s.push b).peek = s.peek := by
  obtain ⟨c, rest, hs⟩ := List.exists_cons_of_ne_nil hne
  rw [s.peek_of_cons hs, (s.push b).peek_of_cons (rest := rest ++ [b]) (by rw [State.push_stream, hs]; rfl)]

/-- The byte consumed and the position are the same with the push. -/
theorem State.consume_push (hne : s.stream ≠ []) : (s.push b).consume = s.consume.push b := by
  have hpeek : (s.push b).peek = s.peek := State.peek_push b hne
  apply State.ext
  case acc => simp only [State.consume_acc, hpeek, State.push_acc, State.push_pos, State.push_stop]
  case pos => rw [State.push_pos, State.consume_pos, State.consume_pos, State.push_pos]
  case busy => rw [State.push_busy, State.consume_busy, State.consume_busy, State.push_pos, State.push_busy]
  case stop =>
    rw [State.push_stop, State.consume_stop, State.consume_stop, hpeek, State.push_pos, State.push_stop]
  case avail => simp
  case stream => simp [List.tail_append_of_ne_nil hne]
  case inputs => simp

/-- Whether POLL pops is a matter of the head byte alone. -/
theorem State.afterPoll_stream_push (hne : s.stream ≠ []) :
    (s.push b).afterPoll.stream = s.afterPoll.stream ++ [b] := by
  have hstray : pollPops (s.push b).pollBranch = pollPops s.pollBranch := by
    rw [Bool.eq_iff_iff, pollPops_iff, pollPops_iff, State.pollBranch_eq_stray_iff,
      State.pollBranch_eq_stray_iff, State.head?_push b hne]
    simp [hne]
  rw [State.afterPoll_stream, State.afterPoll_stream, hstray, State.push_stream,
    List.tail_append_of_ne_nil hne]
  split <;> rfl

/-- Between thirteen framed bytes and fourteen, and nowhere else, the push changes POLL's result. -/
theorem State.afterPoll_avail_push (hne : s.stream ≠ []) :
    (s.push b).afterPoll.avail =
      if s.stream.head? = some 0x02#8 ∧ s.stream.length = 13 then true else s.afterPoll.avail := by
  have hcount : 14 ≤ (s.push b).stream.length ↔ s.stream.length = 13 ∨ 14 ≤ s.stream.length := by
    simp; omega
  rw [Bool.eq_iff_iff, State.afterPoll_avail_iff, State.head?_push b hne, hcount]
  split
  · next hframed => simp [hframed]
  · next hframed =>
    rw [State.afterPoll_avail_iff]
    exact and_congr_right fun hflag => or_iff_right fun hlen => hframed ⟨hflag, hlen⟩

theorem State.afterPoll_push (hne : s.stream ≠ []) :
    (s.push b).afterPoll =
      (s.afterPoll.push b).setAvail
        (if s.stream.head? = some 0x02#8 ∧ s.stream.length = 13 then true else s.afterPoll.avail) := by
  apply State.ext
  case avail => exact State.afterPoll_avail_push b hne
  case stream => exact State.afterPoll_stream_push b hne
  case acc | pos | busy | stop | inputs => simp

theorem State.setAvail_endCycle (v : Bool) : (s.setAvail v).endCycle = s.endCycle.setAvail v := rfl

/-- A POLL of the block, with the one difference the push can make. -/
theorem step_push_of_poll (hne : s.stream ≠ []) (harr : s.currentInput.arrivals = [])
    (h : step s = .next t) (hr : s.currentInput.rst = false) (hb : s.busy = false)
    (hp : s.presented = .poll) :
    step (s.push b) = .next ((t.push b).setAvail
      (if s.stream.head? = some 0x02#8 ∧ s.stream.length = 13 then true else t.avail)) := by
  have hpoll : exec (s.push b).presented (s.push b) = .next (s.push b).afterPoll := hp ▸ exec_poll _
  have harr' : s.afterPoll.currentInput.arrivals = [] :=
    State.currentInput_congr s.afterPoll_inputs ▸ harr
  rw [poll_step_eq h hr hb hp, step_idle (s := s.push b) hr hb hpoll, State.afterPoll_push b hne,
    State.setAvail_endCycle, State.endCycle_push b harr', State.endCycle_avail]

/-- Every step but a POLL of the block. -/
theorem step_push_of_not_poll (hne : s.stream ≠ []) (harr : s.currentInput.arrivals = [])
    (h : step s = .next t)
    (hp : ¬ (s.currentInput.rst = false ∧ s.busy = false ∧ s.presented = .poll)) :
    step (s.push b) = .next (t.push b) := by
  obtain ⟨hr, rfl⟩ | ⟨_, _, he, _⟩ | ⟨hr, hb, _, rfl⟩ | ⟨hr, hb, hpoll, _⟩ | ⟨hr, hb, hread, rfl⟩ |
    ⟨hr, hb, hpoll, hread, rfl⟩ := step_cases h
  case inl =>
    rw [step_reset (s := s.push b) hr, ← State.endCycle_push b (s := s.resetRegisters) harr]; rfl
  case inr.inl => exact absurd he hne
  case inr.inr.inl =>
    have hne' : (s.push b).stream ≠ [] := by simp
    have harr' : s.consume.currentInput.arrivals = [] :=
      State.currentInput_congr s.consume_inputs ▸ harr
    rw [step_busy (s := s.push b) hr hb, State.readContinue_consume _ hne', State.consume_push b hne,
      State.endCycle_push b harr']
  case inr.inr.inr.inl => exact absurd ⟨hr, hb, hpoll⟩ hp
  case inr.inr.inr.inr.inl =>
    rw [step_accept (s := s.push b) hr hb hread, ← State.endCycle_push b (s := s.acceptRead) harr]; rfl
  case inr.inr.inr.inr.inr =>
    rw [step_idle (s := s.push b) hr hb (exec_of_ne_poll_read hpoll hread), State.endCycle_push b harr]

/-- Settles O14: a POLL of the block is the one event that looks at more of the stream than its head. -/
theorem pushCommutesWithStep : Obligations.PushCommutesWithStep := by
  intro s t b hne harr h
  by_cases hp : s.currentInput.rst = false ∧ s.busy = false ∧ s.presented = .poll
  · obtain ⟨hr, hb, hpoll⟩ := hp
    have hframed : (s.currentInput.rst = false ∧ s.busy = false ∧ s.presented = .poll
        ∧ s.stream.head? = some 0x02#8 ∧ s.stream.length = 13)
        ↔ s.stream.head? = some 0x02#8 ∧ s.stream.length = 13 := by simp [hr, hb, hpoll]
    simp only [hframed]
    exact step_push_of_poll b hne harr h hr hb hpoll
  · rw [if_neg fun ⟨hr, hb, hpoll, _⟩ => hp ⟨hr, hb, hpoll⟩]
    exact step_push_of_not_poll b hne harr h hp

end Sys2Proof.Machine
end

section
/-! A stream with the start flag at its head, while no READ and no reset comes (R65, R68). -/

namespace Sys2Proof.Machine

variable {s t : State}

theorem StepInput.calm_iff (i : StepInput) : i.calm = true ↔ i.rst = false ∧ i.noOverflow = true := by
  simp [StepInput.calm]

theorem StepInput.calmNoRead_iff (i : StepInput) :
    i.calmNoRead = true ↔ i.rst = false ∧ i.noOverflow = true ∧ decode i.word ≠ .read := by
  simp [StepInput.calmNoRead, StepInput.calm_iff, and_assoc]

theorem State.portPop_of_framed (hb : s.busy = false) (hhead : s.stream.head? = some 0x02#8) :
    s.portPop = false := by
  rw [← Bool.not_eq_true, popOnlyFromNonEmptyStream]
  simp [hb, hhead]

theorem framed_step_stream (hb : s.busy = false) (hhead : s.stream.head? = some 0x02#8)
    (hpushes : s.currentInput.noOverflow = true) (h : step s = .next t) :
    t.stream = s.stream ++ s.currentInput.arrivals.map Arrival.byte := by
  obtain ⟨_, hstream⟩ := streamIsPoppedThenExtended s t h
  simpa [State.portPop_of_framed hb hhead] using hstream hpushes

theorem State.afterPoll_avail_of_framed (hhead : s.stream.head? = some 0x02#8) :
    s.afterPoll.avail = decide (14 ≤ s.stream.length) := by
  rw [Bool.eq_iff_iff, State.afterPoll_avail_iff]
  simp [hhead]

/-- One step of an idle block over a framed stream without READ, reset or overflow: the stream grows at its
tail, and AVAIL is kept or takes the comparison with fourteen. -/
theorem framed_step (hb : s.busy = false) (hhead : s.stream.head? = some 0x02#8)
    (hcalm : s.currentInput.calmNoRead = true) :
    ∃ t : State, step s = .next t ∧ t.busy = false ∧ t.acc = s.acc
      ∧ t.stream = s.stream ++ s.currentInput.arrivals.map Arrival.byte
      ∧ (t.avail = s.avail ∨ t.avail = decide (14 ≤ s.stream.length)) := by
  obtain ⟨hr, hpushes, hread⟩ := (StepInput.calmNoRead_iff _).mp hcalm
  by_cases hpoll : s.presented = .poll
  · have h : step s = .next s.afterPoll.endCycle := step_idle hr hb (hpoll ▸ exec_poll s)
    exact ⟨_, h, s.afterPoll_busy.trans hb, s.afterPoll_acc, framed_step_stream hb hhead hpushes h,
      .inr (State.afterPoll_avail_of_framed hhead)⟩
  · have h : step s = .next s.endCycle := step_idle hr hb (exec_of_ne_poll_read hpoll hread)
    exact ⟨_, h, hb, rfl, framed_step_stream hb hhead hpushes h, .inl rfl⟩

/-- Settles O24, by induction on the number of steps: `framed_step` keeps its own hypotheses, since a longer
stream has the same head. -/
theorem truePollLastsUntilRead : Obligations.TruePollLastsUntilRead := by
  intro n
  induction n with
  | zero => exact fun s hb _ _ _ => ⟨s, run_zero s, hb, rfl, by simp [State.arrivedWithin_zero], id⟩
  | succ n ih =>
    intro s hb hhead hlen hcalm
    have hcalm0 : s.currentInput.calmNoRead = true := s.inputAt_zero ▸ hcalm 0 n.succ_pos
    obtain ⟨t, h, htb, htacc, htstream, htavail⟩ := framed_step hb hhead hcalm0
    have hthead : t.stream.head? = some 0x02#8 := by simp [htstream, hhead]
    have htlen : 14 ≤ t.stream.length := by simp [htstream]; omega
    obtain ⟨u, hrun, hub, huacc, hustream, huavail⟩ := ih t htb hthead htlen fun k hk =>
      step_inputAt h k ▸ hcalm (k + 1) (Nat.succ_lt_succ hk)
    refine ⟨u, by rw [run_succ h, hrun], hub, huacc.trans htacc, ?_, fun ha => huavail ?_⟩
    · rw [hustream, htstream, arrivedWithin_succ h, List.append_assoc]
    · rcases htavail with hkept | hcompared
      · rw [hkept, ha]
      · simp [hcompared, hlen]

end Sys2Proof.Machine
end

section
/-! The command port: words and commands (R82, R96), the step of an idle block (R81), and the steps that do not
look at the port (R84). -/

namespace Sys2Proof

theorem roundTrip (i : Instr) : Laws.RoundTrip.Statement i := by
  cases i with
  | nopIdle x => exact Laws.RoundTrip.nopIdle x
  | nop => exact Laws.RoundTrip.nop
  | poll => exact Laws.RoundTrip.poll
  | read => exact Laws.RoundTrip.read
  | flush => exact Laws.RoundTrip.flush

theorem Instr.wf_eq_true (i : Instr) : i.wf = true := by
  cases i <;> rfl

theorem encode_decode : ∀ w : CmdWord, encode (decode w) = w := by decide

/-- The two port inputs and the three bits of R96 are the same thing. -/
theorem cmdWordOf_fields : ∀ w : CmdWord, cmdWordOf (cmdValidOf w) (cmdCodeOf w) = w := by decide

/-- Settles O4, word by word. -/
theorem commandCodesDecode : Obligations.CommandCodesDecode :=
  ⟨rfl, rfl, rfl, rfl, rfl, rfl, rfl, rfl⟩

/-- Settles O6: the commands are decoded back one by one, the words are eight. -/
theorem decodeEncodeRoundTrip : Obligations.DecodeEncodeRoundTrip :=
  ⟨fun i hwf => (roundTrip i hwf).1, encode_decode⟩

/-- Settles O5: a word is the one its command encodes to, and that lies in the command's row alone. -/
theorem tableRowsPartitionThePort : Obligations.TableRowsPartitionThePort := by
  intro w
  obtain ⟨_, hrows⟩ := roundTrip (decode w) (Instr.wf_eq_true _)
  rw [encode_decode] at hrows
  exact List.map_eq_singleton_iff.mp hrows

/-- A number that decodes is a command word, and decodes as that word. -/
theorem decode_of_decodeTableWord {nbits w : Nat} {i : Instr} (h : decodeTableWord nbits w = some i) :
    decode (BitVec.ofNat 3 (w % 2 ^ nbits)) = i := by
  by_cases hfits : w % 2 ^ nbits < 8
  · simpa [decodeTableWord, decodeNumber, hfits] using h
  · simp [decodeTableWord, decodeNumber, hfits] at h

namespace Machine

variable {s t : State}

/-- No command touches the schedule of inputs. -/
theorem exec_inputs {i : Instr} (h : exec i s = .next t) : t.inputs = s.inputs := by
  by_cases hpoll : i = .poll
  · subst hpoll; cases h; exact s.afterPoll_inputs
  · by_cases hread : i = .read
    · subst hread; cases h; rfl
    · rw [exec_of_ne_poll_read hpoll hread] at h; cases h; rfl

/-- Settles O7: the end of the step reads the schedule, which the command left as it was. -/
theorem stepRunsPresentedCommand : Obligations.StepRunsPresentedCommand := by
  intro s t hr hb he
  have hinputs : t.inputs = s.inputs := exec_inputs he
  rw [step_idle hr hb he, State.endCycle, State.currentInput_congr hinputs, hinputs]

theorem State.presented_withFetchWord (s : State) (nbits w : Nat) :
    (s.withFetchWord nbits w).presented = decode (BitVec.ofNat 3 (w % 2 ^ nbits)) :=
  congrArg decode (cmdWordOf_fields _)

/-- Settles O8: the placed state is idle and without reset, and presents the word placed. -/
theorem placedWordIsExecuted : Obligations.PlacedWordIsExecuted := by
  intro s t nbits w i hword he
  have hpresented : (s.withFetchWord nbits w).presented = i := by
    rw [State.presented_withFetchWord, decode_of_decodeTableWord hword]
  exact step_idle rfl rfl (hpresented ▸ he)

variable (s) (valid : Bool) (code : CmdCode)

/-- The schedule's move to the next input discards the command. -/
theorem State.endCycle_withCommand : (s.withCommand valid code).endCycle = s.endCycle := rfl

/-- A busy block looks at its registers and its stream alone. -/
theorem State.readContinue_withCommand :
    (s.withCommand valid code).readContinue.endCycle = s.readContinue.endCycle := by
  by_cases hs : s.stream = []
  · rw [s.readContinue_hold hs, (s.withCommand valid code).readContinue_hold hs,
      State.endCycle_withCommand]
  · have hpeek : (s.withCommand valid code).peek = s.peek := rfl
    rw [s.readContinue_consume hs, (s.withCommand valid code).readContinue_consume hs]
    apply State.ext
    case acc | stop =>
      simp only [State.endCycle_acc, State.endCycle_stop, State.consume_acc, State.consume_stop, hpeek]; rfl
    case pos | busy =>
      simp only [State.endCycle_pos, State.endCycle_busy, State.consume_pos, State.consume_busy]; rfl
    case avail | stream | inputs =>
      simp only [State.endCycle_avail, State.endCycle_stream, State.endCycle_inputs, State.consume_avail,
        State.consume_stream, State.consume_inputs, State.currentInput]; rfl

/-- Settles O9: reset and the continuation of a READ come before the command port in R178. -/
theorem commandPortIgnoredWhileBusyOrReset : Obligations.CommandPortIgnoredWhileBusyOrReset := by
  intro s valid code hignored
  cases hr : s.currentInput.rst with
  | true =>
    rw [step_reset hr, step_reset (s := s.withCommand valid code) hr, State.portPop_reset hr,
      State.portPop_reset (s := s.withCommand valid code) hr]
    exact ⟨rfl, rfl⟩
  | false =>
    have hb : s.busy = true := by simpa [hr] using hignored
    rw [step_busy hr hb, step_busy (s := s.withCommand valid code) hr hb,
      State.readContinue_withCommand, State.portPop_busy hr hb,
      State.portPop_busy (s := s.withCommand valid code) hr hb]
    exact ⟨rfl, rfl⟩

end Machine

end Sys2Proof
end

section
/-! The hex digit code (R91): the ranges in numbers, and the value in each of them. -/

namespace Sys2Proof.Machine

variable {b : Byte}

theorem isDecimalDigit_iff : isDecimalDigit b = true ↔ 0x30 ≤ b.toNat ∧ b.toNat ≤ 0x39 := by
  simp [isDecimalDigit, BitVec.le_def]

theorem isUpperHex_iff : isUpperHex b = true ↔ 0x41 ≤ b.toNat ∧ b.toNat ≤ 0x46 := by
  simp [isUpperHex, BitVec.le_def]

theorem isLowerHex_iff : isLowerHex b = true ↔ 0x61 ≤ b.toNat ∧ b.toNat ≤ 0x66 := by
  simp [isLowerHex, BitVec.le_def]

theorem isHex_iff : isHex b = true ↔ (0x30 ≤ b.toNat ∧ b.toNat ≤ 0x39)
    ∨ (0x41 ≤ b.toNat ∧ b.toNat ≤ 0x46) ∨ (0x61 ≤ b.toNat ∧ b.toNat ≤ 0x66) := by
  simp only [isHex, Config.hexLowercase, Bool.true_and, Bool.or_eq_true, isDecimalDigit_iff,
    isUpperHex_iff, isLowerHex_iff, or_assoc]

theorem hexVal_of_decimal (h : isDecimalDigit b = true) : hexVal b = (b - 0x30#8).setWidth 4 := by
  rw [hexVal, if_pos h]

/-- The three ranges of R91 are disjoint, so the tests before the right one fail. -/
theorem hexVal_of_upper (h : isUpperHex b = true) : hexVal b = (b - 0x41#8 + 10#8).setWidth 4 := by
  have hdecimal : ¬ isDecimalDigit b = true := by
    rw [isUpperHex_iff] at h; rw [isDecimalDigit_iff]; omega
  rw [hexVal, if_neg hdecimal, if_pos h]

theorem hexVal_of_lower (h : isLowerHex b = true) : hexVal b = (b - 0x61#8 + 10#8).setWidth 4 := by
  have hdecimal : ¬ isDecimalDigit b = true := by
    rw [isLowerHex_iff] at h; rw [isDecimalDigit_iff]; omega
  have hupper : ¬ isUpperHex b = true := by
    rw [isLowerHex_iff] at h; rw [isUpperHex_iff]; omega
  rw [hexVal, if_neg hdecimal, if_neg hupper, if_pos h]

/-- The second form of R91 for a letter: a letter range that begins one above a multiple of sixteen. -/
theorem letter_value {first : Byte} (hfirst : first.toNat % 16 = 1) (hlo : first.toNat ≤ b.toNat)
    (hhi : b.toNat ≤ first.toNat + 5) :
    ((b - first + 10#8).setWidth 4).toNat = b.toNat - first.toNat + 10
    ∧ (b - first + 10#8).setWidth 4 = b.extractLsb' 0 4 + 9#4 := by
  have hoffset : (b - first + 10#8).toNat = b.toNat - first.toNat + 10 := by bv_omega
  refine ⟨?_, BitVec.eq_of_toNat_eq ?_⟩
  · rw [BitVec.toNat_setWidth, hoffset]; omega
  · rw [BitVec.toNat_setWidth, hoffset, BitVec.toNat_add, BitVec.extractLsb'_toNat]
    simp; omega

theorem decimal_value (hlo : 0x30 ≤ b.toNat) (hhi : b.toNat ≤ 0x39) :
    ((b - 0x30#8).setWidth 4).toNat = b.toNat - 0x30
    ∧ (b - 0x30#8).setWidth 4 = b.extractLsb' 0 4 := by
  have hoffset : (b - 0x30#8).toNat = b.toNat - 0x30 := by bv_omega
  refine ⟨?_, BitVec.eq_of_toNat_eq ?_⟩
  · rw [BitVec.toNat_setWidth, hoffset]; omega
  · rw [BitVec.toNat_setWidth, hoffset, BitVec.extractLsb'_toNat]
    simp; omega

/-- Settles O39: the count over the 256 bytes, then range by range. -/
theorem hexDigitRanges : Obligations.HexDigitRanges := by
  refine ⟨by decide, fun b => ⟨isHex_iff, fun hlo hhi => ?_, fun hlo hhi => ?_, fun hlo hhi => ?_⟩⟩
  · rw [hexVal_of_decimal (isDecimalDigit_iff.mpr ⟨hlo, hhi⟩)]
    exact decimal_value hlo hhi
  · rw [hexVal_of_upper (isUpperHex_iff.mpr ⟨hlo, hhi⟩)]
    exact letter_value (first := 0x41#8) rfl hlo hhi
  · rw [hexVal_of_lower (isLowerHex_iff.mpr ⟨hlo, hhi⟩)]
    exact letter_value (first := 0x61#8) rfl hlo hhi

end Sys2Proof.Machine
end

section
/-! How `Decode` (R141) grows by one data byte, as a value of ACC and as nibbles side by side (R92). -/

namespace Sys2Proof.Machine

variable {d : List Byte} {b : Byte}

theorem takeWhile_append_nonHex (d e : List Byte) (hb : isHex b = false) :
    (d ++ b :: e).takeWhile isHex = d.takeWhile isHex := by
  induction d with
  | nil => simp [hb]
  | cons c d ih => by_cases hc : isHex c = true <;> simp [hc, ih]

theorem decodeNat_nil : decodeNat [] = 0 := rfl

/-- What follows the digits that count has no part in the value. -/
theorem decodeNat_append_of_digitCount_eq {e : List Byte} (h : digitCount (d ++ e) = digitCount d) :
    decodeNat (d ++ e) = decodeNat d := by
  rw [decodeNat, decodeNat, h]
  congr 1
  apply List.map_congr_left
  intro k hk
  rw [getD_append_of_lt (Nat.lt_of_lt_of_le (List.mem_range.mp hk) (digitCount_le d))]

theorem decodeData_append_nonHex (d e : List Byte) (hb : isHex b = false) :
    decodeData (d ++ b :: e) = decodeData d := by
  have hcount : digitCount (d ++ b :: e) = digitCount d := by
    rw [digitCount, digitCount, takeWhile_append_nonHex d e hb]
  rw [decodeData, decodeData, decodeNat_append_of_digitCount_eq hcount]

theorem decodeData_append_of_bad (e : List Byte) (h : d.any (fun b => !isHex b) = true) :
    decodeData (d ++ e) = decodeData d := by
  rw [decodeData, decodeData, decodeNat_append_of_bad e h]

/-- A nibble appended at the low end, as arithmetic. -/
theorem toNat_append_nibble {w : Nat} (x : BitVec w) (n : Nibble) :
    (x ++ n).toNat = 16 * x.toNat + n.toNat := by
  rw [BitVec.toNat_append, ← Nat.shiftLeft_add_eq_or_of_lt n.isLt, Nat.shiftLeft_eq, Nat.mul_comm]

/-- The recurrence of R92 is the shift of R135, the four bits it drops included. -/
theorem decodeData_snoc_digit (hd : d.all isHex = true) (hb : isHex b = true) :
    decodeData (d ++ [b]) = shiftDigit (decodeData d) (hexVal b) := by
  rw [shiftDigit_eq_append, decodeData, decodeNat_snoc_digit hd hb]
  apply BitVec.eq_of_toNat_eq
  have hn : (hexVal b).toNat < 16 := (hexVal b).isLt
  rw [toNat_append_nibble, BitVec.extractLsb'_toNat, decodeData, BitVec.toNat_ofNat, BitVec.toNat_ofNat]
  simp; omega

/-- Nibbles side by side with the value of `d`, and one more digit behind them. -/
theorem toNat_append_hexVal {w : Nat} {x : BitVec w} (hx : x.toNat = decodeNat d)
    (hd : d.all isHex = true) (hb : isHex b = true) :
    (x ++ hexVal b).toNat = decodeNat (d ++ [b]) := by
  rw [toNat_append_nibble, decodeNat_snoc_digit hd hb, hx]

/-- Settles O40, digit by digit from the most significant. -/
theorem eightDigitsDecodeToTheirNibbles : Obligations.EightDigitsDecodeToTheirNibbles := by
  intro d0 d1 d2 d3 d4 d5 d6 d7 hall
  simp only [List.all_cons, List.all_nil, Bool.and_true, Bool.and_eq_true] at hall
  obtain ⟨h0, h1, h2, h3, h4, h5, h6, h7⟩ := hall
  have v0 : (hexVal d0).toNat = decodeNat [d0] := by
    simpa [decodeNat_nil] using (decodeNat_snoc_digit (d := []) rfl h0).symm
  have v1 := toNat_append_hexVal v0 (by simp [*]) h1
  have v2 := toNat_append_hexVal v1 (by simp [*]) h2
  have v3 := toNat_append_hexVal v2 (by simp [*]) h3
  have v4 := toNat_append_hexVal v3 (by simp [*]) h4
  have v5 := toNat_append_hexVal v4 (by simp [*]) h5
  have v6 := toNat_append_hexVal v5 (by simp [*]) h6
  have v7 := toNat_append_hexVal v6 (by simp [*]) h7
  simp only [List.cons_append, List.nil_append] at v7
  rw [decodeData, ← v7]
  exact (BitVec.ofNat_toNat 32 _).trans (BitVec.setWidth_eq _)

theorem getLsbD_shiftDigit (a : Code) (n : Nibble) {i : Nat} (hi : i < 32) :
    (shiftDigit a n).getLsbD i = if i < 4 then n.getLsbD i else a.getLsbD (i - 4) := by
  have hkept : i - 4 < 28 := by omega
  rw [shiftDigit_eq_append, BitVec.getLsbD_append, BitVec.getLsbD_extractLsb']
  simp [hkept]

theorem shiftDigit_low_nibble (a : Code) (n : Nibble) : (shiftDigit a n).extractLsb' 0 4 = n := by
  apply BitVec.eq_of_getLsbD_eq
  intro i hi
  rw [BitVec.getLsbD_extractLsb', getLsbD_shiftDigit a n (by omega)]
  simp [hi]

theorem shiftDigit_high_nibble (a : Code) (n : Nibble) {p : Nat} (hp : p + 4 ≤ 28) :
    (shiftDigit a n).extractLsb' (p + 4) 4 = a.extractLsb' p 4 := by
  apply BitVec.eq_of_getLsbD_eq
  intro i hi
  have hhigh : ¬ p + 4 + i < 4 := by omega
  have hplace : p + 4 + i - 4 = p + i := by omega
  rw [BitVec.getLsbD_extractLsb', BitVec.getLsbD_extractLsb', getLsbD_shiftDigit a n (by omega),
    if_neg hhigh, hplace]

/-- A list that is not empty, cut before its last byte. -/
theorem exists_snoc_of_length {n : Nat} (h : d.length = n + 1) :
    ∃ (q : List Byte) (b : Byte), d = q ++ [b] ∧ q.length = n := by
  have hne : d ≠ [] := List.ne_nil_of_length_eq_add_one h
  exact ⟨d.dropLast, d.getLast hne, (List.dropLast_concat_getLast hne).symm,
    by rw [List.length_dropLast, h, Nat.add_sub_cancel]⟩

/-- Digit `k` of a data region of `n` digits is the nibble of the value with as many nibbles below it as there
are digits behind it (R92). -/
theorem decodeData_nibble {n k : Nat} (hd : d.all isHex = true) (hlen : d.length = n) (hn : n ≤ 8)
    (hk : k < n) : (decodeData d).extractLsb' (4 * (n - 1 - k)) 4 = hexVal (d.getD k 0#8) := by
  induction n generalizing d with
  | zero => exact absurd hk (Nat.not_lt_zero k)
  | succ n ih =>
    obtain ⟨q, b, rfl, hq⟩ := exists_snoc_of_length hlen
    rw [List.all_append, Bool.and_eq_true] at hd
    obtain ⟨hall, hlast⟩ := hd
    have hb : isHex b = true := by rwa [List.all_cons, List.all_nil, Bool.and_true] at hlast
    rw [decodeData_snoc_digit hall hb]
    by_cases hkn : k = n
    · subst hkn
      have hplace : 4 * (k + 1 - 1 - k) = 4 * 0 := by omega
      have hdigit : (q ++ [b]).getD k 0#8 = b := by
        rw [List.getD_eq_getElem?_getD, ← hq, List.getElem?_concat_length, Option.getD_some]
      rw [hplace, hdigit]
      exact shiftDigit_low_nibble _ _
    · have hk' : k < n := by omega
      have hplace : 4 * (n + 1 - 1 - k) = 4 * (n - 1 - k) + 4 := by omega
      rw [hplace, getD_append_of_lt (hq.symm ▸ hk'), shiftDigit_high_nibble _ _ (by omega),
        ih hall hq (by omega) hk']

end Sys2Proof.Machine
end

section
/-! Every step answers (R170), and runs cut in two: what the second part starts from. -/

namespace Sys2Proof.Machine

variable {s t : State}

theorem exec_answers (i : Instr) (s : State) : ∃ t : State, exec i s = .next t := by
  cases i with
  | poll => exact ⟨_, exec_poll s⟩
  | read => exact ⟨_, exec_read⟩
  | nopIdle _ | nop | flush => exact ⟨s, rfl⟩

theorem step_answers (s : State) : ∃ t : State, step s = .next t := by
  cases hr : s.currentInput.rst with
  | true => exact ⟨_, step_reset hr⟩
  | false =>
    cases hb : s.busy with
    | true => exact ⟨_, step_busy hr hb⟩
    | false =>
      obtain ⟨t, he⟩ := exec_answers s.presented s
      exact ⟨_, step_idle hr hb he⟩

theorem run_succ_inv {n : Nat} (h : run (n + 1) s = .next t) :
    ∃ u : State, step s = .next u ∧ run n u = .next t := by
  obtain ⟨u, hu⟩ := step_answers s
  exact ⟨u, hu, run_succ hu n ▸ h⟩

/-- Runs compose. -/
theorem run_add {m : Nat} (h : run m s = .next t) (n : Nat) : run (m + n) s = run n t := by
  induction m generalizing s with
  | zero => cases h; rw [Nat.zero_add]
  | succ m ih =>
    obtain ⟨u, hstep, hrun⟩ := run_succ_inv h
    rw [Nat.succ_add, run_succ hstep, ih hrun]

theorem run_inputs {m : Nat} (h : run m s = .next t) : t.inputs = s.inputs.drop m := by
  induction m generalizing s with
  | zero => cases h; rfl
  | succ m ih =>
    obtain ⟨u, hstep, hrun⟩ := run_succ_inv h
    rw [ih hrun, step_inputs hstep, List.drop_tail]

theorem run_inputAt {m : Nat} (h : run m s = .next t) (k : Nat) : t.inputAt k = s.inputAt (m + k) := by
  simp [State.inputAt, run_inputs h]

theorem arrivedWithin_add {m : Nat} (h : run m s = .next t) (n : Nat) :
    s.arrivedWithin (m + n) = s.arrivedWithin m ++ t.arrivedWithin n := by
  simp [State.arrivedWithin, arrivedBytes, run_inputs h, List.take_add]

end Sys2Proof.Machine
end

section
/-! A READ in progress (R131 to R140): what one consumed byte does to `ReadProgress`, and the READ of a frame
that is buffered. -/

namespace Sys2Proof.Machine

variable {s : State} {p : List Byte} {b : Byte} {rest : List Byte}

/-! ### One more byte of the data region -/

theorem dataRegion_snoc (p : List Byte) (b : Byte) :
    dataRegion (p ++ [b]) =
      if 3 ≤ p.length ∧ p.length ≤ 10 then dataRegion p ++ [b] else dataRegion p := by
  rcases Nat.lt_or_ge p.length 3 with hheader | hheader
  · have hempty : dataRegion p = [] := by simp [dataRegion]; omega
    have hempty' : dataRegion (p ++ [b]) = [] := by simp [dataRegion]; omega
    rw [hempty, hempty', if_neg (by omega)]
  · have hdrop : (p ++ [b]).drop 3 = p.drop 3 ++ [b] := List.drop_append_of_le_length hheader
    rw [dataRegion, dataRegion, hdrop]
    rcases Nat.lt_or_ge 10 p.length with htail | hdata
    · rw [if_neg (by omega), List.take_append_of_le_length (by simp; omega)]
    · rw [if_pos ⟨hheader, hdata⟩, List.take_of_length_le (by simp; omega),
        List.take_of_length_le (by simp; omega)]

theorem decodeData_snoc (d : List Byte) (b : Byte) :
    decodeData (d ++ [b]) =
      if (d.any fun c => !isHex c) = false ∧ isHex b = true
      then shiftDigit (decodeData d) (hexVal b) else decodeData d := by
  cases hd : d.any fun c => !isHex c with
  | true => simp [decodeData_append_of_bad [b] hd]
  | false =>
    have hall : d.all isHex = true := by simpa using hd
    cases hb : isHex b with
    | true => simp [decodeData_snoc_digit hall hb]
    | false => simp [decodeData_append_nonHex d [] hb]

/-! ### One step -/

theorem ReadProgress.frameField_iff (h : ReadProgress p s) :
    frameField s.pos = .data ↔ 3 ≤ p.length ∧ p.length ≤ 10 := by
  rw [frameField_eq_data_iff, h.pos]

/-- ACC and STOP follow `Decode` (R135, R137, R141). -/
theorem ReadProgress.consume_acc_stop (h : ReadProgress p s) (hs : s.stream = b :: rest) :
    s.consume.acc = decodeData (dataRegion (p ++ [b]))
    ∧ s.consume.stop = (dataRegion (p ++ [b])).any fun c => !isHex c := by
  rw [State.consume_acc, State.consume_stop, s.peek_of_cons hs, dataRegion_snoc, h.acc, h.stop]
  by_cases hdata : 3 ≤ p.length ∧ p.length ≤ 10
  · have hfield : frameField s.pos = .data := h.frameField_iff.mpr hdata
    simp [hfield, hdata, decodeData_snoc]
  · have hfield : frameField s.pos ≠ .data := fun hf => hdata (h.frameField_iff.mp hf)
    simp [hfield, hdata]

/-- Before the fourteenth byte the READ goes on. -/
theorem ReadProgress.consume (h : ReadProgress p s) (hs : s.stream = b :: rest) (hlen : p.length < 13) :
    ReadProgress (p ++ [b]) s.consume := by
  obtain ⟨hacc, hstop⟩ := h.consume_acc_stop hs
  have hpos : s.pos.toNat = p.length := h.pos
  have hlast : s.pos ≠ 13#4 := fun he => by simp [he] at hpos; omega
  exact {
    busy := by rw [State.consume_busy, if_neg hlast, h.busy]
    pos := by rw [State.consume_pos, if_neg hlast, toNat_succ_pos (by omega), hpos]; simp
    unfinished := by simp; omega
    avail := by rw [State.consume_avail, h.avail]
    acc := hacc
    stop := hstop }

/-- The fourteenth byte completes the READ. -/
theorem ReadProgress.consume_last (h : ReadProgress p s) (hs : s.stream = b :: rest)
    (hlen : p.length = 13) : ReadDone (p ++ [b]) s.consume := by
  obtain ⟨hacc, hstop⟩ := h.consume_acc_stop hs
  have hlast : s.pos = 13#4 := BitVec.eq_of_toNat_eq (h.pos.trans hlen)
  exact {
    busy := by rw [State.consume_busy, if_pos hlast]
    pos := by rw [State.consume_pos, if_pos hlast]
    length := by simp [hlen]
    avail := by rw [State.consume_avail, h.avail]
    acc := hacc
    stop := hstop }

/-- The end of a step touches no register. -/
theorem ReadProgress.endCycle (h : ReadProgress p s) : ReadProgress p s.endCycle :=
  ⟨h.busy, h.pos, h.unfinished, h.avail, h.acc, h.stop⟩

theorem ReadDone.endCycle (h : ReadDone p s) : ReadDone p s.endCycle :=
  ⟨h.busy, h.pos, h.length, h.avail, h.acc, h.stop⟩

theorem State.readProgress_acceptRead (s : State) : ReadProgress [] s.acceptRead :=
  ⟨rfl, rfl, Nat.zero_le 13, rfl, rfl, rfl⟩

theorem step_consume (hr : s.currentInput.rst = false) (hb : s.busy = true)
    (hs : s.stream = b :: rest) : step s = .next s.consume.endCycle := by
  rw [step_busy hr hb, s.readContinue_consume (by simp [hs])]

/-- The head byte leaves at the consume step, and the arrivals of a calm step join the tail. -/
theorem State.consume_endCycle_stream (hs : s.stream = b :: rest)
    (hcalm : s.currentInput.calm = true) :
    s.consume.endCycle.stream = rest ++ s.currentInput.arrivals.map Arrival.byte := by
  obtain ⟨_, hpushes⟩ := (StepInput.calm_iff _).mp hcalm
  rw [State.endCycle_stream, State.currentInput_congr s.consume_inputs, arriveAll_of_pushes _ _ hpushes,
    State.consume_stream, hs, List.tail_cons]

/-! ### Runs -/

/-- A READ in progress consumes buffered bytes one a step, up to the thirteenth of the frame. -/
theorem ReadProgress.run_buffered (q : List Byte) (h : ReadProgress p s) (hs : s.stream = q ++ rest)
    (hlen : p.length + q.length ≤ 13) (hcalm : ∀ k, k < q.length → (s.inputAt k).calm = true) :
    ∃ t : State, run q.length s = .next t ∧ ReadProgress (p ++ q) t
      ∧ t.stream = rest ++ s.arrivedWithin q.length := by
  induction q generalizing p s rest with
  | nil => exact ⟨s, run_zero s, by simpa using h, by simpa [State.arrivedWithin_zero] using hs⟩
  | cons b q ih =>
    have hcalm0 : s.currentInput.calm = true := s.inputAt_zero ▸ hcalm 0 (by simp)
    obtain ⟨hr, _⟩ := (StepInput.calm_iff _).mp hcalm0
    rw [List.cons_append] at hs
    have hstep : step s = .next s.consume.endCycle := step_consume hr h.busy hs
    have hnext : ReadProgress (p ++ [b]) s.consume.endCycle :=
      (h.consume hs (by simp at hlen; omega)).endCycle
    obtain ⟨t, hrun, ht, hstream⟩ := ih hnext
      (by rw [State.consume_endCycle_stream hs hcalm0, List.append_assoc])
      (by simp at hlen ⊢; omega)
      (fun k hk => step_inputAt hstep k ▸ hcalm (k + 1) (Nat.succ_lt_succ hk))
    refine ⟨t, by rw [List.length_cons, run_succ hstep, hrun], by simpa using ht, ?_⟩
    rw [hstream, List.length_cons, arrivedWithin_succ hstep, List.append_assoc]

/-- With a whole frame buffered the READ completes at the fourteenth consume step (R141, R145). -/
theorem ReadProgress.run_frame {f : List Byte} (h : ReadProgress [] s) (hs : s.stream = f ++ rest)
    (hlen : f.length = 14) (hcalm : ∀ k, k < 14 → (s.inputAt k).calm = true) :
    ∃ t : State, run 14 s = .next t ∧ ReadDone f t ∧ t.stream = rest ++ s.arrivedWithin 14 := by
  obtain ⟨q, b, rfl, hq⟩ := exists_snoc_of_length hlen
  obtain ⟨t, hrun, ht, hstream⟩ := h.run_buffered q (rest := b :: rest) (by simp [hs]) (by simp [hq])
    (fun k hk => hcalm k (by omega))
  rw [hq] at hrun
  rw [hq, List.cons_append] at hstream
  have hcalmt : t.currentInput.calm = true := by
    rw [← t.inputAt_zero, run_inputAt hrun]; exact hcalm 13 (by omega)
  obtain ⟨hr, _⟩ := (StepInput.calm_iff _).mp hcalmt
  have hstep : step t = .next t.consume.endCycle := step_consume hr ht.busy hstream
  refine ⟨t.consume.endCycle, ?_, (ht.consume_last hstream (by simp [hq])).endCycle, ?_⟩
  · rw [run_add hrun 1, run_succ hstep, run_zero]
  · rw [State.consume_endCycle_stream hstream hcalmt, arrivedWithin_add hrun 1, arrivedWithin_succ hstep 0,
      State.arrivedWithin_zero, List.append_nil, List.append_assoc]

theorem StepInput.calmCommand_iff (i : StepInput) (c : Instr) :
    i.calmCommand c = true ↔ i.rst = false ∧ i.noOverflow = true ∧ decode i.word = c := by
  simp [StepInput.calmCommand, StepInput.calm_iff, and_assoc]

/-- From the READ command to its result: the acceptance step and fourteen consume steps (R145). -/
theorem read_of_buffered_frame {f : List Byte} (hb : s.busy = false) (hs : s.stream = f ++ rest)
    (hlen : f.length = 14) (hread : (s.inputAt 0).calmCommand .read = true)
    (hcalm : ∀ k, k < 15 → (s.inputAt k).calm = true) :
    ∃ t : State, run 15 s = .next t ∧ ReadDone f t ∧ t.stream = rest ++ s.arrivedWithin 15 := by
  rw [State.inputAt_zero] at hread
  obtain ⟨hr, hpushes, hcommand⟩ := (StepInput.calmCommand_iff _ _).mp hread
  have hstep : step s = .next s.acceptRead.endCycle := step_accept hr hb hcommand
  have hstream : s.acceptRead.endCycle.stream = f ++ (rest ++ s.currentInput.arrivals.map Arrival.byte) := by
    rw [State.endCycle_stream, ← List.append_assoc, ← hs]
    exact arriveAll_of_pushes _ _ hpushes
  obtain ⟨t, hrun, ht, htstream⟩ := s.readProgress_acceptRead.endCycle.run_frame hstream hlen
    (fun k hk => step_inputAt hstep k ▸ hcalm (k + 1) (by omega))
  exact ⟨t, by rw [run_succ hstep, hrun], ht,
    by rw [htstream, arrivedWithin_succ hstep, List.append_assoc]⟩

end Sys2Proof.Machine
end

section
/-! SYNC and GETCODE (R95), and the code of a conforming frame (R92). -/

namespace Sys2Proof.Machine

variable {s : State} {b : Byte} {g q rest : List Byte}

theorem step_poll (hr : s.currentInput.rst = false) (hb : s.busy = false) (hp : s.presented = .poll) :
    step s = .next s.afterPoll.endCycle :=
  step_idle hr hb (hp ▸ exec_poll s)

/-- A POLL that meets a stray byte drops it and reports 0 (R112). -/
theorem poll_drops_stray_byte (hb : s.busy = false) (hs : s.stream = b :: rest) (hstray : b ≠ 0x02#8)
    (hpoll : s.currentInput.calmCommand .poll = true) :
    ∃ t : State, step s = .next t ∧ t.busy = false ∧ t.avail = false
      ∧ t.stream = rest ++ s.currentInput.arrivals.map Arrival.byte := by
  obtain ⟨hr, hpushes, hcommand⟩ := (StepInput.calmCommand_iff _ _).mp hpoll
  have hstep : step s = .next s.afterPoll.endCycle := step_poll hr hb hcommand
  have hbranch : s.pollBranch = .stray := State.pollBranch_of_stray hs hstray
  have hpop : s.portPop = true := by rw [State.portPop_poll hr hb hcommand, hbranch]; rfl
  obtain ⟨_, hstream⟩ := streamIsPoppedThenExtended _ _ hstep
  refine ⟨_, hstep, s.afterPoll_busy.trans hb, ?_, ?_⟩
  · rw [State.endCycle_avail, State.afterPoll_avail, hbranch]; rfl
  · rw [hstream hpushes, if_pos hpop, hs, List.tail_cons]

/-- A POLL that meets a framed stream moves nothing and reports whether a frame is buffered (R114). -/
theorem poll_reports_framed (hb : s.busy = false) (hhead : s.stream.head? = some 0x02#8)
    (hpoll : s.currentInput.calmCommand .poll = true) :
    ∃ t : State, step s = .next t ∧ t.busy = false ∧ t.avail = decide (14 ≤ s.stream.length)
      ∧ t.stream = s.stream ++ s.currentInput.arrivals.map Arrival.byte := by
  obtain ⟨hr, hpushes, hcommand⟩ := (StepInput.calmCommand_iff _ _).mp hpoll
  have hstep : step s = .next s.afterPoll.endCycle := step_poll hr hb hcommand
  exact ⟨_, hstep, s.afterPoll_busy.trans hb, State.afterPoll_avail_of_framed hhead,
    framed_step_stream hb hhead hpushes hstep⟩

/-- One POLL for each stray byte (R119). -/
theorem polls_drop_stray_bytes (g : List Byte) (hb : s.busy = false) (hs : s.stream = g ++ q)
    (hstray : ∀ b ∈ g, b ≠ 0x02#8)
    (hpolls : ∀ k, k < g.length → (s.inputAt k).calmCommand .poll = true) :
    ∃ t : State, run g.length s = .next t ∧ t.busy = false ∧ t.avail = (s.avail && g.isEmpty)
      ∧ t.stream = q ++ s.arrivedWithin g.length := by
  induction g generalizing s q with
  | nil => exact ⟨s, run_zero s, hb, by simp, by simpa [State.arrivedWithin_zero] using hs⟩
  | cons b g ih =>
    have hpoll : s.currentInput.calmCommand .poll = true := s.inputAt_zero ▸ hpolls 0 (by simp)
    rw [List.cons_append] at hs
    obtain ⟨t, hstep, htb, htavail, htstream⟩ := poll_drops_stray_byte hb hs (hstray b (by simp)) hpoll
    obtain ⟨u, hrun, hub, huavail, hustream⟩ := ih htb (by rw [htstream, List.append_assoc])
      (fun c hc => hstray c (by simp [hc]))
      (fun k hk => step_inputAt hstep k ▸ hpolls (k + 1) (Nat.succ_lt_succ hk))
    refine ⟨u, by rw [List.length_cons, run_succ hstep, hrun], hub, by simp [huavail, htavail], ?_⟩
    rw [hustream, List.length_cons, arrivedWithin_succ hstep, List.append_assoc]

/-- SYNC: one POLL more reports the frame behind the stray bytes (R119). -/
theorem sync_over_stray_bytes (hb : s.busy = false) (hs : s.stream = g ++ q)
    (hstray : ∀ b ∈ g, b ≠ 0x02#8) (hhead : q.head? = some 0x02#8) (hlen : 14 ≤ q.length)
    (hpolls : ∀ k, k ≤ g.length → (s.inputAt k).calmCommand .poll = true) :
    ∃ t : State, run (g.length + 1) s = .next t ∧ t.busy = false ∧ t.avail = true
      ∧ t.stream = q ++ s.arrivedWithin (g.length + 1) := by
  obtain ⟨t, hrun, htb, _, htstream⟩ :=
    polls_drop_stray_bytes g hb hs hstray fun k hk => hpolls k (Nat.le_of_lt hk)
  have hpoll : t.currentInput.calmCommand .poll = true := by
    rw [← t.inputAt_zero, run_inputAt hrun]; exact hpolls g.length (Nat.le_refl _)
  have hthead : t.stream.head? = some 0x02#8 := by simp [htstream, hhead]
  obtain ⟨u, hstep, hub, huavail, hustream⟩ := poll_reports_framed htb hthead hpoll
  refine ⟨u, by rw [run_add hrun 1, run_succ hstep, run_zero], hub, ?_, ?_⟩
  · rw [huavail, decide_eq_true_iff, htstream, List.length_append]; omega
  · rw [hustream, htstream, arrivedWithin_add hrun 1, arrivedWithin_succ hstep 0,
      State.arrivedWithin_zero, List.append_nil, List.append_assoc]

/-- Settles O38: SYNC, and from the state it leaves the READ of the frame at the head. -/
theorem getcodeReturnsDecodedFrame : Obligations.GetcodeReturnsDecodedFrame := by
  intro s g f rest hb hs hstray hlen hhead hpolls hread hcalm
  obtain ⟨t, hsync, htb, htavail, htstream⟩ :=
    sync_over_stray_bytes (q := f ++ rest) hb (by rw [hs, List.append_assoc]) hstray
      (by simp [hhead]) (by simp [hlen]) hpolls
  have hinputAt : ∀ k, t.inputAt k = s.inputAt (g.length + 1 + k) := run_inputAt hsync
  obtain ⟨u, hrun, hu, hustream⟩ := read_of_buffered_frame htb (by rw [htstream, List.append_assoc]) hlen
    (by rw [hinputAt]; exact hread) (fun k hk => by rw [hinputAt]; exact hcalm _ (by omega))
  refine ⟨⟨t, hsync, htavail⟩, u, (run_add hsync 15).trans hrun, hu.busy, hu.acc, hu.avail, ?_⟩
  rw [hustream, List.append_assoc, ← arrivedWithin_add hsync 15]

/-! ### A conforming frame -/

theorem isHex_of_tagDigits {d : List Byte} (h : tagDigits d = true) : d.all isHex = true := by
  rw [List.all_eq_true]
  intro b hb
  have htag := List.all_eq_true.mp h b hb
  simp [isHex, htag]

theorem length_of_conformingFrame {f : List Byte} (h : conformingFrame f = true) : f.length = 14 := by
  simp only [conformingFrame, Bool.and_eq_true, decide_eq_true_iff] at h
  obtain ⟨⟨⟨hlen, _⟩, _⟩, _⟩ := h
  exact hlen

theorem dataRegion_getD {f : List Byte} {k : Nat} (hk : k < 8) :
    (dataRegion f).getD k 0#8 = f.getD (3 + k) 0#8 := by
  simp [dataRegion, hk]

/-- Settles O37: the READ leaves the decode of the data region, of which each digit is a nibble. -/
theorem conformingFrameReadsAsItsTagCode : Obligations.ConformingFrameReadsAsItsTagCode := by
  intro s f rest hb hs hframe hdigits hread hcalm
  have hlen : f.length = 14 := length_of_conformingFrame hframe
  obtain ⟨t, hrun, ht, _⟩ := read_of_buffered_frame hb hs hlen hread hcalm
  refine ⟨t, hrun, ht.busy, fun k hk => ?_⟩
  have hregion : (dataRegion f).length = 8 := by simp [dataRegion, hlen]
  have hplace : 28 - 4 * k = 4 * (8 - 1 - k) := by omega
  rw [State.portCode, ht.acc, hplace,
    decodeData_nibble (isHex_of_tagDigits hdigits) hregion (Nat.le_refl 8) hk, dataRegion_getD hk]

end Sys2Proof.Machine
end

section
/-! The whole state a POLL leaves, one lemma for each branch of the stream (R112 to R114). -/

namespace Sys2Proof.Machine

variable {s : State} {b : Byte} {rest : List Byte}

theorem State.afterPoll_of_ne_stray (h : s.pollBranch ≠ .stray) :
    s.afterPoll = { s with avail := pollResult s.pollBranch } := by
  rw [State.afterPoll, if_neg (mt (pollPops_iff _).mp h)]; rfl

theorem State.afterPoll_of_nil (hs : s.stream = []) : s.afterPoll = { s with avail := false } := by
  have hbranch : s.pollBranch = .empty := State.pollBranch_of_nil hs
  rw [State.afterPoll_of_ne_stray (by simp [hbranch]), hbranch]; rfl

theorem State.afterPoll_of_stray (hs : s.stream = b :: rest) (hb : b ≠ 0x02#8) :
    s.afterPoll = { s with stream := rest, avail := false } := by
  rw [State.afterPoll, State.pollBranch_of_stray hs hb]
  simp [State.pop, State.setAvail, pollPops, pollResult, hs]

theorem State.pollBranch_ne_stray_iff :
    s.pollBranch ≠ .stray ↔ s.stream = [] ∨ s.stream.head? = some 0x02#8 := by
  rw [Ne, State.pollBranch_eq_stray_iff, Classical.not_and_iff_not_or_not, Classical.not_not,
    Classical.not_not]

theorem State.afterPoll_of_framed (hhead : s.stream.head? = some 0x02#8) :
    s.afterPoll = { s with avail := decide (14 ≤ s.stream.length) } := by
  rw [State.afterPoll_of_ne_stray (State.pollBranch_ne_stray_iff.mpr (.inr hhead)),
    ← State.afterPoll_avail, State.afterPoll_avail_of_framed hhead]

/-- Settles O16: the branch `stray` is the one that pops. -/
theorem pollDiscardsOneStrayByte : Obligations.PollDiscardsOneStrayByte := by
  intro s b rest hs hstray
  refine ⟨by rw [exec_poll, State.afterPoll_of_stray hs hstray], fun hr hb hp => ?_⟩
  rw [State.portPop_poll hr hb hp, State.pollBranch_of_stray hs hstray]; rfl

/-- Settles O17: the value on `s_head` is no part of the branch `empty`. -/
theorem pollOnEmptyStreamReportsFalse : Obligations.PollOnEmptyStreamReportsFalse := by
  intro s hs
  refine ⟨by rw [exec_poll, State.afterPoll_of_nil hs], fun hr hb hp => ?_⟩
  rw [State.portPop_poll hr hb hp, State.pollBranch_of_nil hs]; rfl

/-- Settles O18: the count is of the whole stream, the start flag in it. -/
theorem pollOnFramedStreamComparesCount : Obligations.PollOnFramedStreamComparesCount := by
  intro s rest hs
  have hhead : s.stream.head? = some 0x02#8 := by simp [hs]
  refine ⟨?_, fun _ hb _ => State.portPop_of_framed hb hhead⟩
  rw [exec_poll, State.afterPoll_of_framed hhead, hs, List.length_cons]

/-- Only a stray head byte leaves the stream (R117). -/
theorem State.afterPoll_stream_cases (s : State) :
    s.afterPoll.stream = s.stream ∧ (s.stream = [] ∨ s.stream.head? = some 0x02#8)
    ∨ ∃ b, s.stream = b :: s.afterPoll.stream ∧ b ≠ 0x02#8 := by
  cases hs : s.stream with
  | nil => exact .inl ⟨by rw [State.afterPoll_of_nil hs, hs], .inl rfl⟩
  | cons b rest =>
    by_cases hb : b = 0x02#8
    · have hhead : s.stream.head? = some 0x02#8 := by simp [hs, hb]
      exact .inl ⟨by rw [State.afterPoll_of_framed hhead, hs], .inr (by simp [hb])⟩
    · exact .inr ⟨b, by rw [State.afterPoll_of_stray hs hb], hb⟩

/-- Settles O19, field by field; the stream by its head. -/
theorem pollWritesAvailOnly : Obligations.PollWritesAvailOnly := by
  intro s t h
  obtain rfl : s.afterPoll = t := Host.Outcome.next.inj h
  exact ⟨s.afterPoll_acc, s.afterPoll_pos, s.afterPoll_busy, s.afterPoll_stop, s.afterPoll_inputs,
    State.afterPoll_avail_iff, s.afterPoll_stream_cases⟩

end Sys2Proof.Machine
end

section
/-! POLL after POLL: over a stream it does not move (R118), and over stray bytes before a frame (R119). -/

namespace Sys2Proof.Machine

variable {s : State}

theorem State.endCycle_of_no_arrivals (h : s.currentInput.arrivals = []) :
    s.endCycle = { s with inputs := s.inputs.tail } := by
  rw [State.endCycle, h, arriveAll_nil]

/-- A POLL that pops nothing, at a step without arrivals, writes AVAIL and moves the schedule on. -/
theorem step_poll_of_ne_stray (hb : s.busy = false) (hbranch : s.pollBranch ≠ .stray)
    (hpoll : s.currentInput.calmCommand .poll = true) (harr : s.currentInput.arrivals = []) :
    ∃ t : State, step s = .next t
      ∧ t = { s with avail := pollResult s.pollBranch, inputs := s.inputs.tail } := by
  obtain ⟨hr, _, hcommand⟩ := (StepInput.calmCommand_iff _ _).mp hpoll
  have harr' : s.afterPoll.currentInput.arrivals = [] := State.currentInput_congr s.afterPoll_inputs ▸ harr
  refine ⟨_, step_poll hr hb hcommand, ?_⟩
  rw [State.endCycle_of_no_arrivals harr', State.afterPoll_of_ne_stray hbranch]

/-- Settles O21: the second POLL sees the stream of the first, hence takes its branch. -/
theorem pollRepeatsUnlessHeadIsStray : Obligations.PollRepeatsUnlessHeadIsStray := by
  intro s hb hstream hpolls
  have hbranch : s.pollBranch ≠ .stray := State.pollBranch_ne_stray_iff.mpr hstream
  obtain ⟨hpoll, harr⟩ := s.inputAt_zero ▸ hpolls 0 (by decide)
  obtain ⟨t, hfirst, ht⟩ := step_poll_of_ne_stray hb hbranch hpoll harr
  have hsame : t.pollBranch = s.pollBranch := State.pollBranch_congr (by rw [ht])
  have hinput : t.currentInput = s.inputAt 1 := t.inputAt_zero ▸ step_inputAt hfirst 0
  obtain ⟨hpoll', harr'⟩ := hinput ▸ hpolls 1 (by decide)
  obtain ⟨u, hsecond, hu⟩ := step_poll_of_ne_stray (ht ▸ hb) (hsame ▸ hbranch) hpoll' harr'
  refine ⟨t, u, by rw [run_succ hfirst, run_zero], by rw [run_succ hfirst, run_succ hsecond, run_zero],
    by rw [ht], ?_⟩
  rw [hu, hsame, ht]

/-- Settles O22: `k` POLLs drop the first `k` stray bytes, whatever stands behind them. -/
theorem pollsResynchroniseOnFrame : Obligations.PollsResynchroniseOnFrame := by
  intro s g f rest hb hs hstray hlen hhead hpolls
  constructor
  · intro k hk hkg
    have hlength : (g.take k).length = k := List.length_take_of_le hkg
    have hsplit : s.stream = g.take k ++ (g.drop k ++ f ++ rest) := by
      rw [← List.append_assoc, ← List.append_assoc, List.take_append_drop, hs]
    obtain ⟨t, hrun, _, havail, hstream⟩ := polls_drop_stray_bytes (g.take k) hb hsplit
      (fun b hmem => hstray b (List.mem_of_mem_take hmem)) (fun j hj => hpolls j (by omega))
    have hsome : (g.take k).isEmpty = false := by
      rw [List.isEmpty_eq_false_iff, ← List.length_pos_iff, hlength]; exact hk
    rw [hlength] at hrun hstream
    exact ⟨t, hrun, by rw [havail, hsome, Bool.and_false], hstream⟩
  · obtain ⟨t, hrun, _, havail, hstream⟩ := sync_over_stray_bytes (q := f ++ rest) hb
      (by rw [hs, List.append_assoc]) hstray (by simp [hhead]) (by simp [hlen]) hpolls
    exact ⟨t, hrun, havail, hstream⟩

end Sys2Proof.Machine
end

section
/-! The bound on ACC while a READ runs (R142): each data position makes room for one more digit. -/

namespace Sys2Proof.Machine

variable {s : State}

theorem dataBefore_le_succ {p : Pos} (h : p.toNat ≤ 13) : dataBefore p ≤ dataBefore (p + 1#4) := by
  rw [dataBefore, dataBefore, toNat_succ_pos h]; omega

theorem dataBefore_succ_of_data {p : Pos} (hlo : 3 ≤ p.toNat) (hhi : p.toNat ≤ 10) :
    dataBefore (p + 1#4) = dataBefore p + 1 := by
  rw [dataBefore, dataBefore, toNat_succ_pos (by omega)]; omega

/-- Up to the last data position at most seven digits have come, so that the top four bits of ACC are free. -/
theorem State.AccBounded.acc_lt (h : s.AccBounded) (hb : s.busy = true) (hpos : s.pos.toNat ≤ 10) :
    s.acc.toNat < 2 ^ 28 := by
  have hdigits : dataBefore s.pos ≤ 7 := by rw [dataBefore]; omega
  calc s.acc.toNat < 16 ^ dataBefore s.pos := h hb
    _ ≤ 16 ^ 7 := Nat.pow_le_pow_right (by decide) hdigits
    _ = 2 ^ 28 := by decide

theorem State.AccBounded.endCycle (h : s.AccBounded) : s.endCycle.AccBounded := h

theorem State.acceptRead_accBounded (s : State) : s.acceptRead.AccBounded :=
  fun _ => Nat.pow_pos (by decide)

/-- A digit shifted in multiplies ACC by 16 and meets a bound that is 16 times larger; any other byte leaves
ACC, and the bound does not shrink. -/
theorem State.AccBounded.consume (h : s.AccBounded) (hinv : s.Inv) (hb : s.busy = true) :
    s.consume.AccBounded := by
  by_cases hlast : s.pos = 13#4
  · exact State.accBounded_of_idle (by rw [State.consume_busy, if_pos hlast])
  · intro _
    rw [State.consume_acc, State.consume_pos, if_neg hlast]
    split
    · next hdigit =>
      obtain ⟨hdata, _, _⟩ := hdigit
      obtain ⟨hlo, hhi⟩ := (frameField_eq_data_iff _).mp hdata
      have hbound : s.acc.toNat < 16 ^ dataBefore s.pos := h hb
      have hn : (hexVal s.peek).toNat < 16 := (hexVal s.peek).isLt
      rw [shiftDigit_toNat _ (h.acc_lt hb hhi), dataBefore_succ_of_data hlo hhi, Nat.pow_succ]
      omega
    · calc s.acc.toNat < 16 ^ dataBefore s.pos := h hb
        _ ≤ 16 ^ dataBefore (s.pos + 1#4) :=
          Nat.pow_le_pow_right (by decide) (dataBefore_le_succ hinv.pos_legal)

/-- Settles O49, by the events of a step in the order of R178: only acceptance and a consume step write ACC or
POS of a block that is busy afterwards. -/
theorem stepKeepsAccumulatorBound : Obligations.StepKeepsAccumulatorBound := by
  intro s t hinv hacc h
  obtain ⟨_, rfl⟩ | ⟨_, _, _, rfl⟩ | ⟨_, hb, _, rfl⟩ | ⟨_, hb, _, rfl⟩ | ⟨_, _, _, rfl⟩ | ⟨_, _, _, _, rfl⟩ :=
    step_cases h
  · exact State.accBounded_of_idle rfl
  case inr.inl => exact hacc.endCycle
  case inr.inr.inl => exact (hacc.consume hinv hb).endCycle
  case inr.inr.inr.inl => exact State.accBounded_of_idle (s.afterPoll_busy.trans hb)
  case inr.inr.inr.inr.inl => exact s.acceptRead_accBounded.endCycle
  case inr.inr.inr.inr.inr => exact hacc.endCycle

end Sys2Proof.Machine
end

section
/-! READ, step by step (R131 to R140): the whole state that acceptance, a hold and a consume step leave. -/

namespace Sys2Proof.Machine

variable {s : State} {b : Byte} {rest : List Byte}

theorem step_hold (hr : s.currentInput.rst = false) (hb : s.busy = true) (he : s.stream = []) :
    step s = .next s.endCycle := by
  rw [step_busy hr hb, s.readContinue_hold he]

/-- The consume step leaves AVAIL, takes the head byte and moves the schedule on, whatever the position. -/
theorem State.consume_endCycle_eq (hs : s.stream = b :: rest) :
    s.consume.endCycle =
      { s with
        acc := s.consume.acc
        pos := s.consume.pos
        busy := s.consume.busy
        stop := s.consume.stop
        stream := arriveAll rest s.currentInput.arrivals
        inputs := s.inputs.tail } := by
  apply State.ext <;> simp [State.currentInput_congr s.consume_inputs, hs]

/-- A byte outside the data region is discarded: ACC and STOP stay (R134, R138). -/
theorem State.consume_acc_stop_of_not_data (h : frameField s.pos ≠ .data) :
    s.consume.acc = s.acc ∧ s.consume.stop = s.stop := by
  simp [State.consume_acc, State.consume_stop, h]

/-- Before position 13 a consume step advances POS and the block stays busy (R140). -/
theorem State.consume_pos_busy_of_not_last (h : s.pos.toNat ≠ 13) :
    s.consume.pos = s.pos + 1#4 ∧ s.consume.busy = s.busy := by
  have hlast : s.pos ≠ 13#4 := fun he => h (by rw [he]; rfl)
  rw [State.consume_pos, State.consume_busy, if_neg hlast, if_neg hlast]
  exact ⟨rfl, rfl⟩

theorem State.consume_pos_busy_of_last (h : s.pos.toNat = 13) :
    s.consume.pos = 0#4 ∧ s.consume.busy = false := by
  have hlast : s.pos = 13#4 := BitVec.eq_of_toNat_eq h
  rw [State.consume_pos, State.consume_busy, if_pos hlast, if_pos hlast]
  exact ⟨rfl, rfl⟩

/-- Below 2^28 the four bits that a shift drops are zero. -/
theorem extractLsb'_high_nibble_of_lt {a : Code} (h : a.toNat < 2 ^ 28) : a.extractLsb' 28 4 = 0#4 := by
  apply BitVec.eq_of_toNat_eq
  rw [BitVec.extractLsb'_toNat, Nat.shiftRight_eq_div_pow, Nat.div_eq_of_lt h]; rfl

/-- Settles O25: `exec_read`; and only a POLL and a busy block pop. -/
theorem readAcceptanceClearsAndStarts : Obligations.ReadAcceptanceClearsAndStarts :=
  fun _ => ⟨exec_read, fun hr hb hread => State.portPop_of_ne_poll hr hb (by simp [hread])⟩

/-- Settles O26: a hold leaves all to the end of the step, and a busy block pops when there is a byte. -/
theorem readHoldsExactlyWhileEmpty : Obligations.ReadHoldsExactlyWhileEmpty := by
  intro s hr hb
  refine ⟨fun he => ?_, fun hne => ?_⟩
  · refine ⟨by rw [State.portPop_busy hr hb]; simp [he], ?_⟩
    rw [step_hold hr hb he, State.endCycle, he]
  · have hpop : s.portPop = true := by rw [State.portPop_busy hr hb]; simp [hne]
    refine ⟨hpop, _, step_busy hr hb, ?_⟩
    rw [step_stream (step_busy hr hb), if_pos hpop]

/-- Settles O27: a header position is neither a data position nor the last one. -/
theorem readDiscardsHeaderByte : Obligations.ReadDiscardsHeaderByte := by
  intro s b rest hr hb hs hpos
  have hfield : frameField s.pos ≠ .data := by rw [frameField_hdr hpos]; decide
  obtain ⟨hacc, hstop⟩ := State.consume_acc_stop_of_not_data hfield
  obtain ⟨hnext, hbusy⟩ := State.consume_pos_busy_of_not_last (s := s) (by omega)
  rw [step_consume hr hb hs, State.consume_endCycle_eq hs, hacc, hstop, hnext, hbusy]

/-- Settles O28; the bound of R142 leaves the top four bits of ACC free up to the last data position. -/
theorem readShiftsHexDigitIn : Obligations.ReadShiftsHexDigitIn := by
  intro s b rest hr hb hs hlo hhi hstop hhex
  have hfield : frameField s.pos = .data := frameField_data hlo hhi
  have hacc' : s.consume.acc = shiftDigit s.acc (hexVal b) := by
    rw [State.consume_acc, s.peek_of_cons hs, if_pos ⟨hfield, hstop, hhex⟩]
  have hstop' : s.consume.stop = s.stop := by
    simp [State.consume_stop, s.peek_of_cons hs, hhex]
  obtain ⟨hnext, hbusy⟩ := State.consume_pos_busy_of_not_last (s := s) (by omega)
  refine ⟨?_, shiftDigit_eq_append s.acc (hexVal b), fun hbound => ?_⟩
  · rw [step_consume hr hb hs, State.consume_endCycle_eq hs, hacc', hstop', hnext, hbusy, shiftDigit]
  · exact extractLsb'_high_nibble_of_lt (hbound.acc_lt hb hhi)

/-- Settles O29: STOP is set by the byte or was set before it, and in both cases ACC is not written. -/
theorem readStopsAtNonHexByte : Obligations.ReadStopsAtNonHexByte := by
  intro s b rest hr hb hs hlo hhi hbad
  have hfield : frameField s.pos = .data := frameField_data hlo hhi
  have hacc : s.consume.acc = s.acc := by
    rw [State.consume_acc, s.peek_of_cons hs, if_neg]
    rintro ⟨_, hgoing, hhex⟩
    rcases hbad with hstopped | hnonhex
    · simp [hgoing] at hstopped
    · simp [hhex] at hnonhex
  have hstop : s.consume.stop = true := by
    rw [State.consume_stop, s.peek_of_cons hs]
    rcases hbad with hstopped | hnonhex
    · simp [hstopped]
    · simp [hfield, hnonhex]
  obtain ⟨hnext, hbusy⟩ := State.consume_pos_busy_of_not_last (s := s) (by omega)
  rw [step_consume hr hb hs, State.consume_endCycle_eq hs, hacc, hstop, hnext, hbusy]

/-- Settles O30: no tail position is a data position, and position 13 is the last. -/
theorem readDiscardsTailByteAndEnds : Obligations.ReadDiscardsTailByteAndEnds := by
  intro s b rest hr hb hs hlo hhi
  have hfield : frameField s.pos ≠ .data := by rw [frameField_tail hlo]; decide
  obtain ⟨hacc, hstop⟩ := State.consume_acc_stop_of_not_data hfield
  rw [step_consume hr hb hs, State.consume_endCycle_eq hs, hacc, hstop]
  by_cases hlast : s.pos.toNat = 13
  · obtain ⟨hnext, hbusy⟩ := State.consume_pos_busy_of_last hlast
    simp [hnext, hbusy, hlast]
  · obtain ⟨hnext, hbusy⟩ := State.consume_pos_busy_of_not_last hlast
    simp [hnext, hbusy, hlast, hb]

/-- Settles O31: a hold writes no register, and `ReadProgress` grows by the byte a consume step takes. -/
theorem readAdvancesByOneByte : Obligations.ReadAdvancesByOneByte := by
  intro p s h hr
  refine ⟨_, step_busy hr h.busy, fun he => ?_, fun b rest hs => ?_⟩
  · rw [s.readContinue_hold he]
    exact h.endCycle
  · rw [s.readContinue_consume (by simp [hs])]
    exact ⟨fun hlen => (h.consume hs hlen).endCycle, fun hlen => (h.consume_last hs hlen).endCycle⟩

end Sys2Proof.Machine
end

section
/-! The value of a data region (R141): its bound (R142), and malformed data (R137). -/

namespace Sys2Proof.Machine

theorem decodeNat_append_nonHex (d : List Byte) {b : Byte} (e : List Byte) (hb : isHex b = false) :
    decodeNat (d ++ b :: e) = decodeNat d :=
  decodeNat_append_of_digitCount_eq (by rw [digitCount, digitCount, takeWhile_append_nonHex d e hb])

/-- The value grows by at most one hex digit with each byte, at the end of the region. -/
theorem decodeNat_lt {n : Nat} {d : List Byte} (hlen : d.length = n) : decodeNat d < 16 ^ n := by
  induction n generalizing d with
  | zero => rw [List.length_eq_zero_iff.mp hlen, decodeNat_nil]; decide
  | succ n ih =>
    obtain ⟨q, b, rfl, hq⟩ := exists_snoc_of_length hlen
    have hbound : decodeNat q < 16 ^ n := ih hq
    have hn : (hexVal b).toNat < 16 := (hexVal b).isLt
    rw [Nat.pow_succ]
    cases hall : q.any fun c => !isHex c with
    | true => rw [decodeNat_append_of_bad [b] hall]; omega
    | false =>
      have hdigits : q.all isHex = true := by simpa using hall
      cases hb : isHex b with
      | true => rw [decodeNat_snoc_digit hdigits hb]; omega
      | false => rw [decodeNat_append_nonHex q [] hb]; omega

/-- Settles O41: eight digits fill the 32 bits of ACC, and no more. -/
theorem decodedValueFitsAccumulator : Obligations.DecodedValueFitsAccumulator := by
  intro d hlen
  have hfits : decodeNat d < 2 ^ 32 :=
    calc decodeNat d < 16 ^ d.length := decodeNat_lt rfl
      _ ≤ 16 ^ 8 := Nat.pow_le_pow_right (by decide) hlen
      _ = 2 ^ 32 := by decide
  exact ⟨decodeNat_lt rfl, by rw [decodeData, BitVec.toNat_ofNat, Nat.mod_eq_of_lt hfits]⟩

/-- Settles O42: digits are counted up to the first byte that is none. -/
theorem malformedDataDecodesToDigitPrefix : Obligations.MalformedDataDecodesToDigitPrefix :=
  fun d e _ _ hb => decodeData_append_nonHex d e hb

end Sys2Proof.Machine
end

section
/-! Runs of a READ: over a buffered frame (R145), with an empty stream (R144), and for every arrival schedule
(R141). -/

namespace Sys2Proof.Machine

variable {s t u : State} {p : List Byte} {rest : List Byte}

/-! ### A buffered frame -/

/-- READ acceptance at a calm step: no byte is popped. -/
theorem step_calm_read (hb : s.busy = false) (hread : s.currentInput.calmCommand .read = true) :
    ∃ t : State, step s = .next t ∧ ReadProgress [] t
      ∧ t.stream = s.stream ++ s.currentInput.arrivals.map Arrival.byte := by
  obtain ⟨hr, hpushes, hcommand⟩ := (StepInput.calmCommand_iff _ _).mp hread
  exact ⟨_, step_accept hr hb hcommand, s.readProgress_acceptRead.endCycle,
    arriveAll_of_pushes s.stream _ hpushes⟩

/-- Settles O32: acceptance, then one byte a step; up to the fourteenth step by `run_buffered`. -/
theorem readOfBufferedFrameTakesFifteenSteps : Obligations.ReadOfBufferedFrameTakesFifteenSteps := by
  intro s f rest hb hs hlen hread hcalm
  refine ⟨fun k hk hk14 => ?_, read_of_buffered_frame hb hs hlen hread hcalm⟩
  obtain ⟨m, rfl⟩ : ∃ m, k = m + 1 := ⟨k - 1, by omega⟩
  rw [Nat.add_sub_cancel]
  obtain ⟨t, hstep, ht, htstream⟩ := step_calm_read hb (s.inputAt_zero ▸ hread)
  have htake : (f.take m).length = m := List.length_take_of_le (by omega)
  have hsplit : t.stream = f.take m ++ (f.drop m ++ rest ++ s.currentInput.arrivals.map Arrival.byte) := by
    rw [← List.append_assoc, ← List.append_assoc, List.take_append_drop, htstream, hs]
  obtain ⟨u, hrun, hu, hustream⟩ := ht.run_buffered (f.take m) hsplit (by simp; omega)
    (fun j hj => step_inputAt hstep j ▸ hcalm (j + 1) (by omega))
  rw [htake] at hrun hustream
  refine ⟨u, by rw [run_succ hstep, hrun], hu, ?_⟩
  rw [hustream, arrivedWithin_succ hstep, List.append_assoc _ (s.currentInput.arrivals.map _)]

/-- What a READ leaves is fixed by the data region, the stream and the schedule. -/
theorem ReadDone.eq_of_dataRegion_eq {f g : List Byte} (ht : ReadDone f t) (hu : ReadDone g u)
    (hdata : dataRegion f = dataRegion g) (hstream : t.stream = u.stream) (hinputs : t.inputs = u.inputs) :
    t = u :=
  State.ext (by rw [ht.acc, hu.acc, hdata]) (by rw [ht.pos, hu.pos]) (by rw [ht.busy, hu.busy])
    (by rw [ht.stop, hu.stop, hdata]) (by rw [ht.avail, hu.avail]) hstream hinputs

/-- `ReadProgress` speaks of the registers alone. -/
theorem ReadProgress.withStream (h : ReadProgress p s) (bs : List Byte) :
    ReadProgress p { s with stream := bs } :=
  ⟨h.busy, h.pos, h.unfinished, h.avail, h.acc, h.stop⟩

/-- Settles O35: both runs complete at the fourteenth step, over the same arrivals. -/
theorem readIgnoresBytesOutsideData : Obligations.ReadIgnoresBytesOutsideData := by
  intro s f g rest h hf hg hdata hcalm
  obtain ⟨t, hrunt, ht, htstream⟩ := (h.withStream (f ++ rest)).run_frame rfl hf hcalm
  obtain ⟨u, hrunu, hu, hustream⟩ := (h.withStream (g ++ rest)).run_frame rfl hg hcalm
  have hinputs : t.inputs = u.inputs := by rw [run_inputs hrunt, run_inputs hrunu]
  rw [hrunt, hrunu, ht.eq_of_dataRegion_eq hu hdata (htstream.trans hustream.symm) hinputs]

/-! ### Underrun -/

/-- Settles O34, by induction on the number of steps: a hold leaves the same state but for the input used. -/
theorem underrunHoldsUntilReset : Obligations.UnderrunHoldsUntilReset := by
  intro n
  induction n with
  | zero => exact fun s _ _ _ => run_zero s
  | succ n ih =>
    intro s hb he hquiet
    obtain ⟨hr, harr⟩ := s.inputAt_zero ▸ hquiet 0 n.succ_pos
    obtain ⟨t, hstep, ht⟩ : ∃ t : State, step s = .next t ∧ t = { s with inputs := s.inputs.tail } :=
      ⟨_, step_hold hr hb he, State.endCycle_of_no_arrivals harr⟩
    have hquiet' : ∀ k, k < n → (t.inputAt k).rst = false ∧ (t.inputAt k).arrivals = [] :=
      fun k hk => step_inputAt hstep k ▸ hquiet (k + 1) (Nat.succ_lt_succ hk)
    rw [run_succ hstep, ih t (ht ▸ hb) (ht ▸ he) hquiet', ht, List.drop_tail]

/-! ### Every arrival schedule -/

/-- In `n` steps the machine goes from `s` to `t`, and the bytes `q` leave the head of the stream, into which
the arrivals of these steps have come. -/
structure RunTakes (n : Nat) (s : State) (q : List Byte) (t : State) : Prop where
  reaches : run n s = .next t
  takes : s.stream ++ s.arrivedWithin n = q ++ t.stream

theorem runTakes_zero (s : State) : RunTakes 0 s [] s :=
  ⟨run_zero s, by simp [State.arrivedWithin_zero]⟩

theorem runTakes_succ {q q' : List Byte} {n : Nat} (hstep : step s = .next t)
    (hstream : s.stream ++ s.currentInput.arrivals.map Arrival.byte = q ++ t.stream)
    (h : RunTakes n t q' u) : RunTakes (n + 1) s (q ++ q') u := by
  refine ⟨by rw [run_succ hstep, h.reaches], ?_⟩
  rw [arrivedWithin_succ hstep, ← List.append_assoc, hstream, List.append_assoc, h.takes, List.append_assoc]

/-- Bytes that left the stream, by their number. -/
theorem RunTakes.take_drop {q : List Byte} {n k : Nat} (h : RunTakes n s q t) (hk : q.length = k) :
    t.stream = (s.stream ++ s.arrivedWithin n).drop k ∧ (s.stream ++ s.arrivedWithin n).take k = q := by
  rw [h.takes, ← hk, List.drop_left, List.take_left]
  exact ⟨rfl, rfl⟩

/-- One calm step of a READ in progress takes no byte or the head byte, and the READ goes on or is done over
the bytes taken. -/
theorem ReadProgress.calm_step (h : ReadProgress p s) (hcalm : s.currentInput.calm = true) :
    ∃ (q : List Byte) (t : State), step s = .next t
      ∧ s.stream ++ s.currentInput.arrivals.map Arrival.byte = q ++ t.stream
      ∧ (ReadProgress (p ++ q) t ∨ ReadDone (p ++ q) t) := by
  obtain ⟨hr, hpushes⟩ := (StepInput.calm_iff _).mp hcalm
  cases hs : s.stream with
  | nil =>
    refine ⟨[], _, step_hold hr h.busy hs, ?_, .inl (by simpa using h.endCycle)⟩
    rw [State.endCycle_stream, arriveAll_of_pushes _ _ hpushes, hs, List.nil_append, List.nil_append]
  | cons b rest =>
    refine ⟨[b], _, step_consume hr h.busy hs, by rw [State.consume_endCycle_stream hs hcalm]; rfl, ?_⟩
    rcases Nat.lt_or_eq_of_le h.unfinished with hlen | hlen
    · exact .inl (h.consume hs hlen).endCycle
    · exact .inr (h.consume_last hs hlen).endCycle

/-- Any number of calm steps of a READ in progress over `p`. -/
theorem ReadProgress.calm_run (n : Nat) (h : ReadProgress p s)
    (hcalm : ∀ k, k < n → (s.inputAt k).calm = true) :
    (∃ (q : List Byte) (t : State), RunTakes n s q t ∧ ReadProgress (p ++ q) t)
    ∨ ∃ (c : Nat) (q : List Byte) (t : State), c ≤ n ∧ RunTakes c s q t ∧ ReadDone (p ++ q) t := by
  induction n generalizing s p with
  | zero => exact .inl ⟨[], s, runTakes_zero s, by simpa using h⟩
  | succ n ih =>
    obtain ⟨q, t, hstep, hstream, hgoing | hdone⟩ := h.calm_step (s.inputAt_zero ▸ hcalm 0 n.succ_pos)
    · obtain ⟨q', u, hrun, hu⟩ | ⟨c, q', u, hc, hrun, hu⟩ :=
        ih hgoing fun k hk => step_inputAt hstep k ▸ hcalm (k + 1) (Nat.succ_lt_succ hk)
      · exact .inl ⟨q ++ q', u, runTakes_succ hstep hstream hrun, by rwa [← List.append_assoc]⟩
      · exact .inr ⟨c + 1, q ++ q', u, Nat.succ_le_succ hc, runTakes_succ hstep hstream hrun,
          by rwa [← List.append_assoc]⟩
    · exact .inr ⟨1, q ++ [], t, Nat.succ_le_succ n.zero_le,
        runTakes_succ hstep hstream (runTakes_zero t), by rwa [List.append_nil]⟩

/-- Settles O33: POS, or fourteen, is the number of the bytes that `calm_run` says have left the stream. -/
theorem readDecodesFirstFourteenBytes : Obligations.ReadDecodesFirstFourteenBytes := by
  intro n s h hcalm
  obtain ⟨q, t, hrun, ht⟩ | ⟨c, q, t, hc, hrun, ht⟩ := h.calm_run n hcalm
  · obtain ⟨hstream, htaken⟩ := hrun.take_drop ht.pos.symm
    exact .inl ⟨t, hrun.reaches, hstream, htaken.symm ▸ ht⟩
  · obtain ⟨hstream, htaken⟩ := hrun.take_drop ht.length
    exact .inr ⟨c, t, hc, hrun.reaches, hstream, htaken.symm ▸ ht⟩

end Sys2Proof.Machine
end

section
/-! FLUSH and NOP (R160, R162), and the short framed stream that neither they nor POLL can clear (R161). -/

namespace Sys2Proof.Machine

variable {s : State}

/-- Settles O50: POLL and READ are the only commands that write, and POLL the only one that pops when it is
executed. -/
theorem flushChangesNothing : Obligations.FlushChangesNothing :=
  fun _ => ⟨exec_of_ne_poll_read nofun nofun,
    fun hr hb hflush => State.portPop_of_ne_poll hr hb (by simp [hflush])⟩

/-- Settles O51, as for FLUSH; the ignored bits of an absent command are no part of the argument. -/
theorem nopChangesNothing : Obligations.NopChangesNothing := by
  intro s x
  refine ⟨exec_of_ne_poll_read nofun nofun, exec_of_ne_poll_read nofun nofun, fun hr hb hnop => ?_⟩
  have hpoll : s.presented ≠ .poll := by rcases hnop with h | h <;> simp [h]
  exact State.portPop_of_ne_poll hr hb hpoll

/-- One step over a short framed stream without READ, reset or arrivals: a POLL finds fewer than fourteen
bytes, so AVAIL is kept or falls. -/
theorem short_framed_step (hb : s.busy = false) (hhead : s.stream.head? = some 0x02#8)
    (hshort : s.stream.length < 14) (hcalm : s.currentInput.calmNoRead = true)
    (harr : s.currentInput.arrivals = []) :
    ∃ t : State, step s = .next t ∧ t.stream = s.stream ∧ t.busy = false
      ∧ (s.avail = false → t.avail = false) := by
  obtain ⟨t, hstep, htb, _, htstream, htavail⟩ := framed_step hb hhead hcalm
  refine ⟨t, hstep, by simpa [harr] using htstream, htb, fun havail => ?_⟩
  rcases htavail with hkept | hcompared
  · rw [hkept, havail]
  · simp [hcompared, hshort]

/-- Settles O23, by induction on the number of steps: `short_framed_step` keeps its own hypotheses. -/
theorem shortFramedStreamStays : Obligations.ShortFramedStreamStays := by
  intro n
  induction n with
  | zero => exact fun s _ hb _ _ _ => ⟨s, run_zero s, rfl, hb, id⟩
  | succ n ih =>
    intro s rest hb hs hlen hquiet
    obtain ⟨hcalm, harr⟩ := s.inputAt_zero ▸ hquiet 0 n.succ_pos
    have hshort : s.stream.length < 14 := by simp [hs]; omega
    obtain ⟨t, hstep, htstream, htb, htavail⟩ := short_framed_step hb (by simp [hs]) hshort hcalm harr
    obtain ⟨u, hrun, hustream, hub, huavail⟩ := ih t rest htb (htstream.trans hs) hlen fun k hk =>
      step_inputAt hstep k ▸ hquiet (k + 1) (Nat.succ_lt_succ hk)
    exact ⟨u, by rw [run_succ hstep, hrun], hustream.trans htstream, hub, huavail ∘ htavail⟩

end Sys2Proof.Machine
end

section
/-! The step function is total: the block raises nothing and has no error outcome (R170). -/

namespace Sys2Proof.Machine

/-- Settles O11: a step is a reset, a step of a busy block or the presented command on an idle one
(`step_answers`), and each of the five commands answers (`exec_answers`). -/
theorem everyStepAnswersNext : Obligations.EveryStepAnswersNext :=
  ⟨step_answers, exec_answers⟩

end Sys2Proof.Machine
end

section
/-! A reset step as a whole (R200). -/

namespace Sys2Proof.Machine

/-- What reset leaves at the end of its step: of the old state only the stream, with the arrivals added, and
the schedule are left (R202). -/
theorem State.resetRegisters_endCycle (s : State) : s.resetRegisters.endCycle =
    { acc := 0#32, pos := 0#4, busy := false, stop := false, avail := false,
      stream := arriveAll s.stream s.currentInput.arrivals, inputs := s.inputs.tail } := rfl

/-- Settles O1: reset comes first in the order of R178, both for the next state and for `s_pop`. -/
theorem resetStepZeroesRegisters : Obligations.ResetStepZeroesRegisters := by
  intro s hr
  constructor
  · rw [step_reset hr, s.resetRegisters_endCycle]
  · exact State.portPop_reset hr

end Sys2Proof.Machine
end
